-- ==== Sys2Proof/Word.lean ====
section
/-! DEFINITION. The word types of the block: every width here is one the spec gives
(00_scope.md R8, R10: all values are unsigned, bit 0 is the least significant bit). -/

namespace Sys2Proof

/-- A 32-bit register, frequency or buffer word (R8 FREQ_WIDTH, R110). -/
abbrev Word := BitVec 32

/-- An 8-bit symbol or bus byte (R8 SYM_WIDTH, R204). -/
abbrev Byte := BitVec 8

/-- A 9-bit arena index (R8 NODE_IDX_WIDTH). -/
abbrev NodeIdx := BitVec 9

/-- `zext_32` of R10. -/
abbrev zext32 {w : Nat} (v : BitVec w) : Word := v.setWidth 32

/-- A count or length, as the 32-bit word the spec stores it in. -/
abbrev word (n : Nat) : Word := BitVec.ofNat 32 n

end Sys2Proof
end

