-- ==== Sys2Proof/Config.lean ====
section
/-! DEFINITION. The sizes this hardware fixes, the two parameters of a build, and the free values
(00_scope.md R8; 93_implementation_defined.md sections 1 and 5). -/

namespace Sys2Proof
namespace Config

/-- NSYM = 2^SYM_WIDTH (R8). -/
abbrev nsym : Nat := 256
/-- FREQ_MAX (R8). -/
abbrev freqMax : Nat := 4294967295
/-- MAX_NODES = 2*NSYM - 1 (R8). -/
abbrev maxNodes : Nat := 511
/-- NIL, the absent-child marker, never a valid index (R8, D5). -/
abbrev nil : NodeIdx := 0x1FF#9
/-- MAX_CODE_LEN (R8). -/
abbrev maxCodeLen : Nat := 255
/-- SERBUF_WORDS = 1 + 2*MAX_NODES (R8). -/
abbrev serbufWords : Nat := 1023
/-- The size of the register window in bytes (R110, R201). -/
abbrev windowBytes : Nat := 64

/-- An arbitrary word, one for each draw and each SERBUF index: what a SERBUF word that nothing has
written since reset reads as (R161: "a free draw under no law"; log 2). It has no body, so nothing
can be proved of its value. -/
opaque freeWord : Nat → Nat → Word

end Config

/-- The parameters of a build (R8, R201; PAR1, PAR2): constant, written by nothing (log 1). -/
structure Params where
  /-- BASE, the byte address of the register window. DESIGN CHOICE (log 20): the spec gives bus addresses no
  width, and here they are unbounded. -/
  base : Nat
  /-- OBUF_BITS, the capacity of the output bit buffer. -/
  obufBits : Nat
  deriving DecidableEq, Repr

/-- OBUF_BITS has its default (R8). DESIGN CHOICE: BASE, which the spec leaves open, is 0 (log 1). -/
def Params.default : Params := ⟨0, 512⟩

end Sys2Proof
end

