-- ==== Sys2Proof/Syntax.lean ====
section
/-! DEFINITION. What the host can say to the block: the 23 commands of HUFF-CMD version 1
(30_encoding.md R304), the register names (10_state.md R110), the host's moves on the bus
(20_memory.md R203, 70_reset_and_hazards.md R701), and the statements of a host program (R309, R310). -/

namespace Sys2Proof

/-- The commands, one constructor for each row of spec/opcode_table.json. Every operand has the
exact width of its field (R302, R303), so a term holds nothing its encoding cannot. -/
inductive Instr where
  | nop
  | softReset
  | errClear
  | freqClear
  | freqCount (sym : Byte)
  | freqWrite (sym : Byte)
  | freqRead (sym : Byte)
  | build
  | treeClear
  | nodeRead (idx : BitVec 10)
  | genCodes
  | codeRead (sym : Byte) (wrd : BitVec 3)
  | encClear
  | encSym (sym : Byte)
  | outPop
  | decReset
  | decBit (bit : Bool)
  | decWord (cnt : BitVec 6)
  | decEnd
  | serBuild
  | serRead (idx : BitVec 10)
  | desWrite (idx : BitVec 10)
  | desRun
  deriving DecidableEq, Repr

/-- The sixteen registers of the window (R110). -/
inductive Reg where
  | id | params | cmd | dataIn
  | status | result0 | result1 | treeInfo
  | freqTotal | decInfo | decCount | encInfo
  | encBits | reserved34 | reserved38 | reserved3C
  deriving DecidableEq, Repr

/-- One move of the world outside the block: a bus read of `width` bytes, a bus write of the given
byte lanes (the lowest address first, R204), or the reset input (R701). DESIGN CHOICE (log 20): an
address has no width, so no access wraps. -/
inductive HostMove where
  | read (addr width : Nat)
  | write (addr : Nat) (lanes : List Byte)
  | reset
  deriving DecidableEq, Repr

/-- A statement of a host program (R309) or a pseudo-instruction (R310). -/
inductive Stmt where
  | command (i : Instr)
  | wr (reg : Reg) (value : Word)
  | rd (reg : Reg)
  | poll
  | freqLoad (sym : Byte) (value : Word)
  | decLoad (bits : Word) (cnt : BitVec 6)
  | desLoad (idx : BitVec 10) (value : Word)
  | count (text : List Byte)
  | encode (text : List Byte)
  | decodeBits (bits : List Bool)
  | desImage (values : List Word)
  deriving DecidableEq, Repr

end Sys2Proof
end

