-- ==== Sys2Proof/WellFormed.lean ====
section
/-! DEFINITION. The checks on terms. The widths of R302 are in the types of `Instr`, so every term has an
encoding. What remains is checked here: the operand ranges a command accepts whatever the state is
(R303, second clause), the length of a DES_IMAGE (R310), the constraints on a build's parameters (PAR1,
PAR2), and the form of a bus access (R203). -/

namespace Sys2Proof

/-- R303, R506, R526, R528: the operand is in the range its command accepts in every state. A command
word that fails this is still a command: it raises ARG_RANGE. NODE_READ is not here, because its
range depends on the loaded tree (R452). -/
def Instr.argsInRange : Instr → Bool
  | .decWord cnt => decide (1 ≤ cnt.toNat) && decide (cnt.toNat ≤ 32)
  | .serRead idx => decide (idx.toNat < Config.serbufWords)
  | .desWrite idx => decide (idx.toNat < Config.serbufWords)
  | .nop | .softReset | .errClear | .freqClear | .freqCount _ | .freqWrite _ | .freqRead _
  | .build | .treeClear | .nodeRead _ | .genCodes | .codeRead _ _ | .encClear | .encSym _
  | .outPop | .decReset | .decBit _ | .decEnd | .serBuild | .desRun => true

/-- PAR1 and PAR2: BASE is a multiple of 64, OBUF_BITS is 255 to 65535. -/
def Params.wf (p : Params) : Bool :=
  decide (p.base % 64 = 0) && decide (Config.maxCodeLen ≤ p.obufBits) && decide (p.obufBits ≤ 65535)

/-- R303, R310: the statement has an expansion. The forms that have none are DES_IMAGE with no value, since R310's
form names at least v0, and with more than 1024 values, since `DES_LOAD 1024` has no encoding (log 19). -/
def Stmt.wf : Stmt → Bool
  | .desImage values => decide (1 ≤ values.length) && decide (values.length ≤ 1024)
  | .command _ | .wr _ _ | .rd _ | .poll | .freqLoad _ _ | .decLoad _ _ | .desLoad _ _ | .count _
  | .encode _ | .decodeBits _ => true

/-- R203: a bus access has the one defined form, an aligned 32-bit access inside the window of `p`. -/
def HostMove.wf (p : Params) : HostMove → Bool
  | .read addr width =>
      decide (width = 4) && decide (addr % 4 = 0) && decide (p.base ≤ addr)
        && decide (addr + 4 ≤ p.base + Config.windowBytes)
  | .write addr lanes =>
      decide (lanes.length = 4) && decide (addr % 4 = 0) && decide (p.base ≤ addr)
        && decide (addr + 4 ≤ p.base + Config.windowBytes)
  | .reset => true

end Sys2Proof
end

