-- ==== Sys2Proof/Decode.lean ====
section
/-! DEFINITION. From command words to commands and back (30_encoding.md R300 to R308), and the byte order
of the bus (20_memory.md R204). The encoder and the opcode table below are written from the same
tables of the spec, R302 and R304. -/

namespace Sys2Proof

/-- OPC = w[31:24] (R301). -/
def opcOf (w : Word) : Byte := w.extractLsb' 24 8

/-- IMM = w[23:0] (R301). -/
def immOf (w : Word) : BitVec 24 := w.extractLsb' 0 24

/-- The six formats (R302). -/
inductive Format where
  | N | S | B | C | I | SW
  deriving DecidableEq, Repr

/-- The IMM bits that hold operand fields (R305); the others are reserved. -/
def fieldmask : Format → BitVec 24
  | .N => 0x000000#24
  | .S => 0x0000FF#24
  | .B => 0x000001#24
  | .C => 0x00003F#24
  | .I => 0x0003FF#24
  | .SW => 0x0007FF#24

/-- The opcode map (R304): the format of an assigned opcode, none for an unassigned one. -/
def formatOf (opc : Byte) : Option Format :=
  match opc.toNat with
  | 0x00 => some .N | 0x01 => some .N | 0x02 => some .N
  | 0x10 => some .N | 0x11 => some .S | 0x12 => some .S | 0x13 => some .S
  | 0x20 => some .N | 0x21 => some .N | 0x22 => some .I
  | 0x30 => some .N | 0x31 => some .SW
  | 0x40 => some .N | 0x41 => some .S | 0x42 => some .N
  | 0x50 => some .N | 0x51 => some .B | 0x52 => some .C | 0x53 => some .N
  | 0x60 => some .N | 0x61 => some .I | 0x62 => some .I | 0x63 => some .N
  | _ => none

/-- The SYM field of the formats S and SW: w[7:0] (R302). -/
def symField (imm : BitVec 24) : Byte := imm.extractLsb' 0 8

/-- The BIT field: w[0] (R302). -/
def bitField (imm : BitVec 24) : Bool := imm.getLsbD 0

/-- The CNT field: w[5:0] (R302). -/
def cntField (imm : BitVec 24) : BitVec 6 := imm.extractLsb' 0 6

/-- The IDX field: w[9:0] (R302). -/
def idxField (imm : BitVec 24) : BitVec 10 := imm.extractLsb' 0 10

/-- The WRD field: w[10:8] (R302). -/
def wrdField (imm : BitVec 24) : BitVec 3 := imm.extractLsb' 8 3

/-- The command of an assigned opcode with its operand fields taken from IMM (R303, R304). -/
def commandOf (opc : Byte) (imm : BitVec 24) : Option Instr :=
  match opc.toNat with
  | 0x00 => some .nop
  | 0x01 => some .softReset
  | 0x02 => some .errClear
  | 0x10 => some .freqClear
  | 0x11 => some (.freqCount (symField imm))
  | 0x12 => some (.freqWrite (symField imm))
  | 0x13 => some (.freqRead (symField imm))
  | 0x20 => some .build
  | 0x21 => some .treeClear
  | 0x22 => some (.nodeRead (idxField imm))
  | 0x30 => some .genCodes
  | 0x31 => some (.codeRead (symField imm) (wrdField imm))
  | 0x40 => some .encClear
  | 0x41 => some (.encSym (symField imm))
  | 0x42 => some .outPop
  | 0x50 => some .decReset
  | 0x51 => some (.decBit (bitField imm))
  | 0x52 => some (.decWord (cntField imm))
  | 0x53 => some .decEnd
  | 0x60 => some .serBuild
  | 0x61 => some (.serRead (idxField imm))
  | 0x62 => some (.desWrite (idxField imm))
  | 0x63 => some .desRun
  | _ => none

/-- Why a word is no command (R306), or why bytes are no word (R300). -/
inductive DecodeError where
  | unassignedOpcode (opc : Byte)
  | reservedBitSet (imm : BitVec 24)
  | notOneWord (nbytes : Nat)
  deriving DecidableEq, Repr

/-- The decoder (R305, R308), total on every word: first the opcode, then the reserved bits. -/
def decode (w : Word) : Except DecodeError Instr :=
  match formatOf (opcOf w), commandOf (opcOf w) (immOf w) with
  | some f, some i =>
      if immOf w &&& ~~~ fieldmask f = 0#24 then .ok i else .error (.reservedBitSet (immOf w))
  | _, _ => .error (.unassignedOpcode (opcOf w))

/-- The opcode of a command (R304). -/
def opcodeOf : Instr → Byte
  | .nop => 0x00#8
  | .softReset => 0x01#8
  | .errClear => 0x02#8
  | .freqClear => 0x10#8
  | .freqCount _ => 0x11#8
  | .freqWrite _ => 0x12#8
  | .freqRead _ => 0x13#8
  | .build => 0x20#8
  | .treeClear => 0x21#8
  | .nodeRead _ => 0x22#8
  | .genCodes => 0x30#8
  | .codeRead _ _ => 0x31#8
  | .encClear => 0x40#8
  | .encSym _ => 0x41#8
  | .outPop => 0x42#8
  | .decReset => 0x50#8
  | .decBit _ => 0x51#8
  | .decWord _ => 0x52#8
  | .decEnd => 0x53#8
  | .serBuild => 0x60#8
  | .serRead _ => 0x61#8
  | .desWrite _ => 0x62#8
  | .desRun => 0x63#8

/-- The immediate field of a command, as the bit diagrams of R302 draw it. -/
def immediateOf : Instr → BitVec 24
  | .nop | .softReset | .errClear | .freqClear | .build | .treeClear | .genCodes | .encClear
  | .outPop | .decReset | .decEnd | .serBuild | .desRun => 0#24
  | .freqCount sym | .freqWrite sym | .freqRead sym | .encSym sym => 0#16 ++ sym
  | .decBit bit => 0#23 ++ BitVec.ofBool bit
  | .decWord cnt => 0#18 ++ cnt
  | .nodeRead idx | .serRead idx | .desWrite idx => 0#14 ++ idx
  | .codeRead sym wrd => 0#13 ++ wrd ++ sym

/-- The encoder: `(OPC << 24) | IMM` (R304). -/
def encode (i : Instr) : Word := opcodeOf i ++ immediateOf i

/-- A row of spec/opcode_table.json: mnemonic, mask and match. -/
structure TableRow where
  mnemonic : String
  mask : Word
  pattern : Word
  deriving DecidableEq, Repr

/-- `(w AND mask) == match` (R308). -/
def TableRow.covers (r : TableRow) (w : Word) : Bool := w &&& r.mask == r.pattern

/-- The rows of the machine-readable opcode table, its mnemonics, masks and matches as they stand. -/
def tableRows : List TableRow :=
  [ ⟨"NOP", 0xFFFFFFFF#32, 0x00000000#32⟩,
    ⟨"SOFT_RESET", 0xFFFFFFFF#32, 0x01000000#32⟩,
    ⟨"ERR_CLEAR", 0xFFFFFFFF#32, 0x02000000#32⟩ ] ++
  [ ⟨"FREQ_CLEAR", 0xFFFFFFFF#32, 0x10000000#32⟩,
    ⟨"FREQ_COUNT", 0xFFFFFF00#32, 0x11000000#32⟩,
    ⟨"FREQ_WRITE", 0xFFFFFF00#32, 0x12000000#32⟩,
    ⟨"FREQ_READ", 0xFFFFFF00#32, 0x13000000#32⟩ ] ++
  [ ⟨"BUILD", 0xFFFFFFFF#32, 0x20000000#32⟩,
    ⟨"TREE_CLEAR", 0xFFFFFFFF#32, 0x21000000#32⟩,
    ⟨"NODE_READ", 0xFFFFFC00#32, 0x22000000#32⟩ ] ++
  [ ⟨"GEN_CODES", 0xFFFFFFFF#32, 0x30000000#32⟩,
    ⟨"CODE_READ", 0xFFFFF800#32, 0x31000000#32⟩ ] ++
  [ ⟨"ENC_CLEAR", 0xFFFFFFFF#32, 0x40000000#32⟩,
    ⟨"ENC_SYM", 0xFFFFFF00#32, 0x41000000#32⟩,
    ⟨"OUT_POP", 0xFFFFFFFF#32, 0x42000000#32⟩ ] ++
  [ ⟨"DEC_RESET", 0xFFFFFFFF#32, 0x50000000#32⟩,
    ⟨"DEC_BIT", 0xFFFFFFFE#32, 0x51000000#32⟩,
    ⟨"DEC_WORD", 0xFFFFFFC0#32, 0x52000000#32⟩,
    ⟨"DEC_END", 0xFFFFFFFF#32, 0x53000000#32⟩ ] ++
  [ ⟨"SER_BUILD", 0xFFFFFFFF#32, 0x60000000#32⟩,
    ⟨"SER_READ", 0xFFFFFC00#32, 0x61000000#32⟩,
    ⟨"DES_WRITE", 0xFFFFFC00#32, 0x62000000#32⟩,
    ⟨"DES_RUN", 0xFFFFFFFF#32, 0x63000000#32⟩ ]

/-- The mnemonic of a command (R304). -/
def mnemonicOf : Instr → String
  | .nop => "NOP"
  | .softReset => "SOFT_RESET"
  | .errClear => "ERR_CLEAR"
  | .freqClear => "FREQ_CLEAR"
  | .freqCount _ => "FREQ_COUNT"
  | .freqWrite _ => "FREQ_WRITE"
  | .freqRead _ => "FREQ_READ"
  | .build => "BUILD"
  | .treeClear => "TREE_CLEAR"
  | .nodeRead _ => "NODE_READ"
  | .genCodes => "GEN_CODES"
  | .codeRead _ _ => "CODE_READ"
  | .encClear => "ENC_CLEAR"
  | .encSym _ => "ENC_SYM"
  | .outPop => "OUT_POP"
  | .decReset => "DEC_RESET"
  | .decBit _ => "DEC_BIT"
  | .decWord _ => "DEC_WORD"
  | .decEnd => "DEC_END"
  | .serBuild => "SER_BUILD"
  | .serRead _ => "SER_READ"
  | .desWrite _ => "DES_WRITE"
  | .desRun => "DES_RUN"

/-- R204: lane j (0 to 3) of a 32-bit access carries bits [8j+7:8j]. -/
def lanesOf (w : Word) : List Byte :=
  [w.extractLsb' 0 8, w.extractLsb' 8 8, w.extractLsb' 16 8, w.extractLsb' 24 8]

/-- The word of four byte lanes (R204); none for any other number of bytes (R203). -/
def wordOfLanes : List Byte → Option Word
  | [b0, b1, b2, b3] => some (b3 ++ b2 ++ b1 ++ b0)
  | _ => none

/-- The decoder on the bytes of a bus write to CMD, total on any bytes (R203, R300). -/
def decodeBytes (bytes : List Byte) : Except DecodeError Instr :=
  match wordOfLanes bytes with
  | some w => decode w
  | none => .error (.notOneWord bytes.length)

/-- The command word whose bits are the low `nbits` bits of `w`, the bits above them 0: the table
numbers a command's bits as R10 does, bit 0 the least significant. -/
def tableWord (nbits w : Nat) : Word := word (w % 2 ^ nbits)

/-- What the decoder reads from the table's word `w`, laid out in byte lanes as the bus has it. -/
def decodeTableWord (nbits w : Nat) : Option Instr :=
  match decodeBytes (lanesOf (tableWord nbits w)) with
  | .ok i => some i
  | .error _ => none

end Sys2Proof
end

