-- ==== Sys2Proof/Machine/State.lean ====
section
/-! DEFINITION. The state of the block (10_state.md), as plain data, and its reset value
(70_reset_and_hazards.md R700). INVENTORY.md lists every field with its rule and reset value. -/

namespace Sys2Proof
namespace Machine

/-- The error codes that STATUS.LAST_ERR can hold (R600, whose numbers are `errNumber` in Flags.lean).
The reserved numbers 10 to 15 are never produced (RSV4), so they have no constructor. -/
inductive ErrCode where
  | ok
  | emptyInput
  | unknownSymbol
  | truncatedStream
  | serializationFormat
  | illegalCommand
  | argRange
  | noTree
  | countOverflow
  | obufFull
  deriving DecidableEq, Repr

/-- An arena entry (R142). The two alternatives carry the fields that are meaningful in each: an entry
with LEAF = 1 has SYM and F, and its LEFT and RIGHT are NIL; an entry with LEAF = 0 has F, LEFT and
RIGHT, and its SYM is 0. -/
inductive Node where
  | leaf (sym : Byte) (f : Word)
  | inner (f : Word) (left right : NodeIdx)
  deriving DecidableEq, Repr

/-- A Huffman tree as a value (R14, doc00 §3's TreeNode): what hangs under a node of the arena, read by
following LEFT and RIGHT, without the arena indices (R533: they are not part of the structure). -/
inductive HTree where
  | leaf (sym : Byte) (f : Word)
  | node (f : Word) (left right : HTree)
  deriving DecidableEq, Repr

/-- SERBUF's storage (R161): the words written since reset, as (index, word) in strictly rising order of
index. An index that is not listed has not been written since reset and has no value (log 2, 18). -/
abbrev Memory := List (Nat × Word)

/-- The state of the block. The last three fields are the model's own (log 2, 5, 8). -/
structure State where
  /-- The build's parameters (R8); no command writes them (log 1). -/
  params : Params
  /-- DATA_IN (R123). -/
  dataIn : Word
  /-- STATUS.BUSY (R124, R140). -/
  busy : Bool
  /-- STATUS.ERR_STICKY (R124). -/
  errSticky : Bool
  /-- STATUS.LAST_ERR (R124). -/
  lastErr : ErrCode
  /-- STATUS.LAST_OPC (R124). -/
  lastOpc : Byte
  /-- RESULT0 (R125). -/
  result0 : Word
  /-- RESULT1 (R125). -/
  result1 : Word
  /-- FREQ[0..255] (R141). -/
  freq : Vector Word 256
  /-- TOTAL, the register FREQ_TOTAL (R127). -/
  total : Word
  /-- NODE[0..510] (R142): the entries written since reset, NODE[0] first (log 3). -/
  nodes : List Node
  /-- TREE_INFO.ROOT (R126). -/
  root : NodeIdx
  /-- TREE_INFO.NNODES (R126). -/
  nnodes : BitVec 9
  /-- TREE_INFO.NLEAVES (R126). -/
  nleaves : BitVec 9
  /-- TREE_INFO.TREE_VALID (R126). -/
  treeValid : Bool
  /-- TREE_INFO.CODES_VALID (R126). -/
  codesValid : Bool
  /-- CODE[0..255] (R145): the BITS of each entry, first bit first; LEN is their number. -/
  code : Vector (List Bool) 256
  /-- DEC_NODE (R150). -/
  decNode : NodeIdx
  /-- DEC_COUNT (R130). -/
  decCount : Word
  /-- OBUF (R160), the oldest bit first. -/
  obuf : List Bool
  /-- ENC_BITS (R131). -/
  encBits : Word
  /-- SERBUF[0..1022] (R161). -/
  serbuf : Memory
  /-- The model's own: the number of commands that have read SERBUF, which names the next draw (log 2). -/
  draws : Nat
  /-- The model's own: the moves of the outside world still to come, the oldest first (log 5). -/
  bus : List HostMove
  /-- The model's own: the byte lanes of the host's last read (log 8). -/
  readData : List Byte
  deriving DecidableEq, Repr

/-- Why the model stops. No state the spec allows stops it: each fault is met only in a state in which
the stored tree breaks the tree invariant R144, which no run reaches. All are safe (log 9). -/
inductive Fault where
  /-- Raised by NODE_READ, GEN_CODES, DEC_BIT, DEC_WORD and SER_BUILD when the index they follow names no
  entry of the loaded tree. Safe. -/
  | arenaEntryAbsent
  /-- Raised by GEN_CODES and SER_BUILD when the walk from ROOT goes deeper than MAX_NODES levels, so that
  the arena holds a cycle. Safe. -/
  | arenaTooDeep
  /-- Raised by BUILD when TOTAL is not 0 and no symbol has a count, against R141. Safe. -/
  | noSymbolCounted
  deriving DecidableEq, Repr

/-- Moves and commands the model gives no meaning. -/
inductive Refusal where
  /-- In exec only, for a command whose meaning is not written: none at present. Safe. -/
  | notModelled (mnemonic : String)
  /-- Raised by a bus access that touches no byte of the register window: not the block's access
  (93_implementation_defined.md BUS4: "refuse"; log 7). Safe. -/
  | accessOutsideWindow
  /-- Raised by a host write to CMD or DATA_IN while BUSY = 1 (R710, HST1: "refuse: the model gives the host
  no such move"; log 6). BUSY is 0 between steps, so no run reaches it. It errs toward proving for a
  host that does not poll: unsafe for such a host. -/
  | hostWriteWhileBusy
  deriving DecidableEq, Repr

/-- What a command or a step answers. -/
abbrev Answer := Host.Outcome State Fault Refusal

/-- The block right after hardware reset (R700). -/
def State.reset : State where
  params := Params.default
  dataIn := 0#32
  busy := false
  errSticky := false
  lastErr := .ok
  lastOpc := 0x00#8
  result0 := 0#32
  result1 := 0#32
  freq := Vector.replicate 256 0#32
  total := 0#32
  nodes := []
  root := 0x1FF#9
  nnodes := 0#9
  nleaves := 0#9
  treeValid := false
  codesValid := false
  code := Vector.replicate 256 []
  decNode := 0x1FF#9
  decCount := 0#32
  obuf := []
  encBits := 0#32
  serbuf := []
  draws := 0
  bus := []
  readData := []

end Machine
end Sys2Proof
end

