-- ==== Sys2Proof/Machine/Flags.lean ====
section
/-! DEFINITION. The status words of the block, each put together from the fields State holds
(10_state.md R120 to R131), and the numbers of the error codes (60_exceptions.md R600). -/

namespace Sys2Proof
namespace Machine

/-- The code of an error in STATUS.LAST_ERR (R600). -/
def errNumber : ErrCode → BitVec 4
  | .ok => 0#4
  | .emptyInput => 1#4
  | .unknownSymbol => 2#4
  | .truncatedStream => 3#4
  | .serializationFormat => 4#4
  | .illegalCommand => 5#4
  | .argRange => 6#4
  | .noTree => 7#4
  | .countOverflow => 8#4
  | .obufFull => 9#4

/-- ID: "HUFF" (R120). -/
def idWord : Word := 0x48554646#32

/-- PARAMS: OBUF_BITS, FREQ_WIDTH = 32, SYM_WIDTH = 8 (R121). -/
def paramsWord (s : State) : Word := BitVec.ofNat 16 s.params.obufBits ++ 32#8 ++ 8#8

/-- STATUS: LAST_OPC [15:8], LAST_ERR [7:4], ERR_STICKY [1], BUSY [0] (R124). -/
def statusWord (s : State) : Word :=
  0#16 ++ s.lastOpc ++ errNumber s.lastErr ++ 0#2 ++ BitVec.ofBool s.errSticky ++ BitVec.ofBool s.busy

/-- TREE_INFO: CODES_VALID [28], TREE_VALID [27], NLEAVES [26:18], NNODES [17:9], ROOT [8:0] (R126). -/
def treeInfoWord (s : State) : Word :=
  0#3 ++ BitVec.ofBool s.codesValid ++ BitVec.ofBool s.treeValid ++ s.nleaves ++ s.nnodes ++ s.root

/-- DEC_INFO: AT_ROOT [9], computed, and DEC_NODE [8:0] (R128). -/
def decInfoWord (s : State) : Word :=
  0#22 ++ BitVec.ofBool (s.decNode == s.root) ++ s.decNode

/-- ENC_INFO: OBUF_CNT, the length of OBUF (R129; the field grows with OBUF_BITS, log 17). -/
def encInfoWord (s : State) : Word := word s.obuf.length

end Machine
end Sys2Proof
end

