-- ==== Sys2Proof/Machine/Operands.lean ====
section
/-! DEFINITION. The forms in which operands and results are packed into words: bit sequences
(20_memory.md R205), arena entries (42_tree_builder.md R452), and the words of a tree image
(46_serializer.md R521 to R523). -/

namespace Sys2Proof
namespace Machine

/-- The first `k` bits of a sequence as a number, the first bit the most significant; bits the
sequence does not have are 0. -/
def bitsValue : Nat → List Bool → Nat
  | 0, _ => 0
  | k + 1, [] => bitsValue k []
  | k + 1, b :: bs => (if b then 2 ^ k else 0) + bitsValue k bs

/-- R205: up to 32 bits packed into a word, the first bit in bit 31, the unused low bits 0. -/
def packBits (bits : List Bool) : Word := word (bitsValue 32 bits)

/-- R205, R506: bit `t` of a packed word, bit 31 being the first. -/
def packedBit (d : Word) (t : Nat) : Bool := d.getMsbD t

/-- The slice of a code that CODE_READ returns: bits 32*j to 32*j + 31 of it (R466). -/
def codeSlice (bits : List Bool) (j : Nat) : Word := packBits ((bits.drop (32 * j)).take 32)

/-- The F field of an arena entry (R142). -/
def Node.freq : Node → Word
  | .leaf _ f => f
  | .inner f _ _ => f

/-- The LEFT field: NIL in a leaf (R142). -/
def Node.left : Node → NodeIdx
  | .leaf _ _ => Config.nil
  | .inner _ l _ => l

/-- The RIGHT field: NIL in a leaf (R142). -/
def Node.right : Node → NodeIdx
  | .leaf _ _ => Config.nil
  | .inner _ _ r => r

/-- The SYM field: 0 in an internal node (R142). -/
def Node.symbol : Node → Byte
  | .leaf sym _ => sym
  | .inner _ _ _ => 0#8

/-- The LEAF bit (R142). -/
def Node.isLeaf : Node → Bool
  | .leaf _ _ => true
  | .inner _ _ _ => false

/-- R452: {LEAF, 0b0000, LEFT[8:0], RIGHT[8:0], 0b0, SYM[7:0]}. -/
def nodeWord (e : Node) : Word :=
  BitVec.ofBool e.isLeaf ++ 0#4 ++ e.left ++ e.right ++ 0#1 ++ e.symbol

/-- The stream header of an n-node image: MAGIC, VERSION 1, reserved 0, COUNT (R522). -/
def imageHeader (n : Nat) : Word := 0x4854#16 ++ 1#4 ++ 0#2 ++ BitVec.ofNat 10 n

/-- A leaf's node header: TAG 0xA and SYM_PRESENT (R523). -/
def leafHeader (sym : Byte) : Word := 0xA4#8 ++ 0#16 ++ sym

/-- An internal node's header: TAG 0xA, LEFT_PRESENT and RIGHT_PRESENT (R523). -/
def innerHeader : Word := 0xA3000000#32

/-- The detail word of a 1 bit in a degenerate tree, at position `t` of its command (R504, R601). -/
def badBitDetail (t : Nat) : Word := 0x80000000#32 ||| word t

/-- RESULT0 of the Decoder: bit 31 and the emitted symbol, or 0 (R503, R506). -/
def emittedWord : Option Byte → Word
  | some sym => 0x80000000#32 ||| zext32 sym
  | none => 0#32

end Machine
end Sys2Proof
end

