-- ==== Sys2Proof/Machine/Ops.lean ====
section
/-! DEFINITION. The operations the commands share: how a command ends (30_encoding.md R305,
60_exceptions.md R602), access to the internal tables (20_memory.md R202), loading and unloading a
tree (42_tree_builder.md R448, R451), reading a tree out of the arena, and hardware reset
(70_reset_and_hazards.md R700). -/

namespace Sys2Proof
namespace Machine

/-! ### How a command ends -/

/-- Normal completion (R305): LAST_ERR 0, LAST_OPC, the two results, BUSY 0. -/
def complete (opc : Byte) (r0 r1 : Word) (s : State) : State :=
  { s with busy := false, lastErr := .ok, lastOpc := opc, result0 := r0, result1 := r1 }

/-- `raise E(info)` (R602), the block's only exception: no counter is saved, no mode changes and
control goes nowhere (R605), so there is no return from it beside it (R606). -/
def raise (e : ErrCode) (info : Word) (opc : Byte) (s : State) : State :=
  { s with busy := false, lastErr := e, lastOpc := opc, errSticky := true,
           result0 := info, result1 := 0#32 }

/-! ### FREQ and CODE -/

/-- FREQ[sym] (R141). -/
def State.freqAt (s : State) (sym : Byte) : Word := s.freq[sym.toNat]'sym.isLt

/-- FREQ[sym] <- v. -/
def State.setFreq (s : State) (sym : Byte) (v : Word) : State :=
  { s with freq := s.freq.set sym.toNat v sym.isLt }

/-- The BITS of CODE[sym] (R145); LEN is the length of this sequence. -/
def State.codeAt (s : State) (sym : Byte) : List Bool := s.code[sym.toNat]'sym.isLt

/-- Every CODE[s].LEN <- 0 and CODES_VALID <- 0 (R145). -/
def clearCodes (s : State) : State :=
  { s with code := Vector.replicate 256 [], codesValid := false }

/-! ### SERBUF -/

/-- The word at index `i`, if it has been written since reset. -/
def Memory.lookup : Memory → Nat → Option Word
  | [], _ => none
  | (j, w) :: rest, i => if i = j then some w else Memory.lookup rest i

/-- SERBUF[i] <- w, keeping the list in rising order of index. -/
def Memory.write : Memory → Nat → Word → Memory
  | [], i, w => [(i, w)]
  | (j, v) :: rest, i, w =>
      if i < j then (i, w) :: (j, v) :: rest
      else if i = j then (i, w) :: rest
      else (j, v) :: Memory.write rest i w

/-- Consecutive words from index `i` on. -/
def Memory.writeFrom : Memory → Nat → List Word → Memory
  | m, _, [] => m
  | m, i, w :: ws => Memory.writeFrom (m.write i w) (i + 1) ws

/-- The canonical form: the listed indices rise strictly from one entry to the next, and each is below
the bound of SERBUF. No listed value can equal an unlisted word's, which has none. -/
def Memory.wf : Memory → Bool
  | [] => true
  | [(i, _)] => decide (i < Config.serbufWords)
  | (i, _) :: (j, w) :: rest => decide (i < j) && Memory.wf ((j, w) :: rest)

/-- What a command that reads SERBUF finds at index `i`: the word written last, or, where none has been
written since reset, a free draw (R161; log 2). -/
def State.serWord (s : State) (i : Nat) : Word :=
  match s.serbuf.lookup i with
  | some w => w
  | none => Config.freeWord s.draws i

/-- A command has read SERBUF: the next one draws afresh (log 2). -/
def State.drawn (s : State) : State := { s with draws := s.draws + 1 }

/-! ### The tree -/

/-- NODE[0..NNODES), the entries that belong to the loaded tree (R142). -/
def State.arena (s : State) : List Node := s.nodes.take s.nnodes.toNat

/-- NODE[i], where `i` names an entry of the loaded tree; no command reads any other (R450). -/
def State.nodeAt (s : State) (i : NodeIdx) : Option Node := s.arena[i.toNat]?

/-- The tree under entry `i`, following LEFT and RIGHT at most `depth` levels down. -/
def readTree (arena : List Node) : (depth : Nat) → NodeIdx → Except Fault HTree
  | 0, _ => .error .arenaTooDeep
  | depth + 1, i =>
      match arena[i.toNat]? with
      | none => .error .arenaEntryAbsent
      | some (.leaf sym f) => .ok (.leaf sym f)
      | some (.inner f l r) =>
          match readTree arena depth l with
          | .error e => .error e
          | .ok tl =>
              match readTree arena depth r with
              | .error e => .error e
              | .ok tr => .ok (.node f tl tr)

/-- The loaded tree. MAX_NODES levels are more than any tree of R144 has (log 13). -/
def State.tree (s : State) : Except Fault HTree := readTree s.arena Config.maxNodes s.root

/-- The F of the root of a tree. -/
def HTree.freq : HTree → Word
  | .leaf _ f => f
  | .node f _ _ => f

/-- The number of nodes of a tree. -/
def HTree.size : HTree → Nat
  | .leaf _ _ => 1
  | .node _ l r => 1 + l.size + r.size

/-- The number of leaves of a tree. -/
def HTree.leaves : HTree → Nat
  | .leaf _ _ => 1
  | .node _ l r => l.leaves + r.leaves

/-- The commit of BUILD and DES_RUN (R448, R530): NODE[0..n) <- arena, the tree registers, the code
table invalidated, the Decoder at the new root with DEC_COUNT = 0. Entries from n on are untouched. -/
def loadTree (arena : List Node) (root : NodeIdx) (nleaves : Nat) (s : State) : State :=
  { clearCodes s with
    nodes := arena ++ s.nodes.drop arena.length
    root := root
    nnodes := BitVec.ofNat 9 arena.length
    nleaves := BitVec.ofNat 9 nleaves
    treeValid := true
    decNode := root
    decCount := 0#32 }

/-- The empty tree (R451, R530, R143): the registers of TREE_INFO at 0x000001FF, no codes, the Decoder
at NIL. The storage of NODE is untouched. -/
def unloadTree (s : State) : State :=
  { clearCodes s with
    root := Config.nil
    nnodes := 0#9
    nleaves := 0#9
    treeValid := false
    decNode := Config.nil
    decCount := 0#32 }

/-! ### Reset -/

/-- The items that SOFT_RESET and hardware reset both set (R700, R401); SERBUF and the storage of NODE
are not among them. STATUS, RESULT0 and RESULT1 are at their reset values too. -/
def resetRegisters (s : State) : State :=
  { unloadTree s with
    dataIn := 0#32
    busy := false
    errSticky := false
    lastErr := .ok
    lastOpc := 0x00#8
    result0 := 0#32
    result1 := 0#32
    freq := Vector.replicate 256 0#32
    total := 0#32
    obuf := []
    encBits := 0#32 }

/-- Hardware reset (R700, R701): SERBUF and NODE become unspecified, that is, as if nothing had been
written (log 11). The parameters are the build's and stay; so do the model's own fields, which are
outside the block. -/
def hardReset (s : State) : State :=
  { resetRegisters s with nodes := [], serbuf := [] }

end Machine
end Sys2Proof
end

