-- ==== Sys2Proof/Machine/CodeTable.lean ====
section
/-! DEFINITION. The Code Table Generator commands (43_code_table.md). -/

namespace Sys2Proof
namespace Machine

/-- The symbol of every leaf with the path from the root to it (R461 walk, R462): label 0 for LEFT and
1 for RIGHT, the first edge first. -/
def HTree.paths : HTree → List (Byte × List Bool)
  | .leaf sym _ => [(sym, [])]
  | .node _ l r =>
      (l.paths.map fun e => (e.1, false :: e.2)) ++ (r.paths.map fun e => (e.1, true :: e.2))

/-- The codes of a tree (R461): the paths, or the one-bit placeholder when the root is a leaf (R464). -/
def HTree.codes : HTree → List (Byte × List Bool)
  | .leaf sym _ => [(sym, [false])]
  | .node f l r => (HTree.node f l r).paths

/-- The scratch table C of R461: the listed codes, and LEN = 0 everywhere else. -/
def codeTable (codes : List (Byte × List Bool)) : Vector (List Bool) 256 :=
  codes.foldl (fun table e => table.set e.1.toNat e.2 e.1.isLt) (Vector.replicate 256 [])

/-- The longest LEN of a code table (R461). -/
def longestCode (table : Vector (List Bool) 256) : Nat :=
  table.toList.foldl (fun m bits => max m bits.length) 0

/-- GEN_CODES (R461). -/
def execGenCodes (s : State) : Answer :=
  if s.treeValid = false then .next (raise .noTree 0#32 0x30#8 s)
  else
    match s.tree with
    | .error e => .fault e
    | .ok t =>
        let table := codeTable t.codes
        .next (complete 0x30#8 (zext32 s.nleaves) (word (longestCode table))
          { s with code := table, codesValid := true })

/-- CODE_READ (R466). -/
def execCodeRead (sym : Byte) (wrd : BitVec 3) (s : State) : Answer :=
  let bits := s.codeAt sym
  .next (complete 0x31#8 (codeSlice bits wrd.toNat) (word bits.length) s)

end Machine
end Sys2Proof
end

