-- ==== Sys2Proof/Machine/Control.lean ====
section
/-! DEFINITION. The control commands (40_control.md). -/

namespace Sys2Proof
namespace Machine

/-- NOP (R400). -/
def execNop (s : State) : Answer := .next (complete 0x00#8 0#32 0#32 s)

/-- SOFT_RESET (R401, R703): the reset values, with SERBUF and the storage of NODE kept. -/
def execSoftReset (s : State) : Answer := .next (complete 0x01#8 0#32 0#32 (resetRegisters s))

/-- ERR_CLEAR (R402). -/
def execErrClear (s : State) : Answer :=
  .next (complete 0x02#8 0#32 0#32 { s with errSticky := false })

end Machine
end Sys2Proof
end

