-- ==== Sys2Proof/Machine/Decoder.lean ====
section
/-! DEFINITION. The Decoder commands (45_decoder.md) over the tree-walk step R502. -/

namespace Sys2Proof
namespace Machine

/-- What one tree-walk step, or a run of them, answers: the node reached, the symbol emitted if any
and the number of bits consumed; or an error; or a fault (log 9). -/
inductive Walk where
  | at (node : NodeIdx) (out : Option Byte) (used : Nat)
  | err (e : ErrCode) (info : Word)
  | broken (f : Fault)
  deriving DecidableEq, Repr

/-- `dstep(i, b, t)` (R502). The bit is position `t` of its command. -/
def dstep (s : State) (i : NodeIdx) (b : Bool) (t : Nat) : Walk :=
  if s.treeValid = false then .err .noTree 0#32
  else
    match s.nodeAt s.root with
    | none => .broken .arenaEntryAbsent
    | some (.leaf sym _) =>
        if b then .err .truncatedStream (badBitDetail t) else .at s.root (some sym) (t + 1)
    | some (.inner _ _ _) =>
        match s.nodeAt i with
        | none => .broken .arenaEntryAbsent
        | some e =>
            let c := if b then e.right else e.left
            match s.nodeAt c with
            | none => .broken .arenaEntryAbsent
            | some (.leaf sym _) => .at s.root (some sym) (t + 1)
            | some (.inner _ _ _) => .at c none (t + 1)

/-- The loop of DEC_WORD (R506): at most `left` more bits of `d` from position `t` on, stopping at the
first emitted symbol. -/
def dwalk (s : State) (d : Word) : (left : Nat) → (t : Nat) → NodeIdx → Walk
  | 0, t, i => .at i none t
  | left + 1, t, i =>
      match dstep s i (packedBit d t) t with
      | .at i' none _ => dwalk s d left (t + 1) i'
      | w => w

/-- DEC_NODE and DEC_COUNT after a walk (R503, R506): the counter counts emitted symbols, modulo 2^32. -/
def State.decoded (s : State) (node : NodeIdx) : Option Byte → State
  | some _ => { s with decNode := node, decCount := s.decCount + 1#32 }
  | none => { s with decNode := node }

/-- DEC_RESET (R501). -/
def execDecReset (s : State) : Answer :=
  .next (complete 0x50#8 (zext32 s.root) 0#32 { s with decNode := s.root, decCount := 0#32 })

/-- DEC_BIT (R503). -/
def execDecBit (bit : Bool) (s : State) : Answer :=
  match dstep s s.decNode bit 0 with
  | .broken f => .fault f
  | .err e info => .next (raise e info 0x51#8 s)
  | .at node out _ => .next (complete 0x51#8 (emittedWord out) (zext32 node) (s.decoded node out))

/-- DEC_WORD (R506). -/
def execDecWord (cnt : BitVec 6) (s : State) : Answer :=
  if cnt.toNat = 0 ∨ cnt.toNat > 32 then .next (raise .argRange (zext32 cnt) 0x52#8 s)
  else if s.treeValid = false then .next (raise .noTree 0#32 0x52#8 s)
  else
    match dwalk s s.dataIn cnt.toNat 0 s.decNode with
    | .broken f => .fault f
    | .err e info => .next (raise e info 0x52#8 s)
    | .at node out used =>
        .next (complete 0x52#8 (emittedWord out) (word used) (s.decoded node out))

/-- DEC_END (R508). -/
def execDecEnd (s : State) : Answer :=
  if s.decNode ≠ s.root then .next (raise .truncatedStream (zext32 s.decNode) 0x53#8 s)
  else .next (complete 0x53#8 s.decCount 0#32 s)

end Machine
end Sys2Proof
end

