-- ==== Sys2Proof/Machine/Encoder.lean ====
section
/-! DEFINITION. The Encoder commands (44_encoder.md). -/

namespace Sys2Proof
namespace Machine

/-- ENC_CLEAR (R481). -/
def execEncClear (s : State) : Answer :=
  .next (complete 0x40#8 0#32 0#32 { s with obuf := [], encBits := 0#32 })

/-- ENC_SYM (R482, R484, R485). -/
def execEncSym (sym : Byte) (s : State) : Answer :=
  let bits := s.codeAt sym
  if bits.length = 0 then .next (raise .unknownSymbol (zext32 sym) 0x41#8 s)
  else if s.obuf.length + bits.length > s.params.obufBits then
    .next (raise .obufFull (word bits.length) 0x41#8 s)
  else
    let out := s.obuf ++ bits
    .next (complete 0x41#8 (word bits.length) (word out.length)
      { s with obuf := out, encBits := s.encBits + word bits.length })

/-- OUT_POP (R486). -/
def execOutPop (s : State) : Answer :=
  let n := min 32 s.obuf.length
  .next (complete 0x42#8 (packBits (s.obuf.take n)) (word n) { s with obuf := s.obuf.drop n })

end Machine
end Sys2Proof
end

