-- ==== Sys2Proof/Machine/Frequency.lean ====
section
/-! DEFINITION. The frequency table commands (41_frequency.md). The sums are exact and compared with
FREQ_MAX before they are stored (R12, R426). -/

namespace Sys2Proof
namespace Machine

/-- FREQ_CLEAR (R422). -/
def execFreqClear (s : State) : Answer :=
  .next (complete 0x10#8 0#32 0#32 { s with freq := Vector.replicate 256 0#32, total := 0#32 })

/-- FREQ_COUNT (R423). -/
def execFreqCount (sym : Byte) (s : State) : Answer :=
  if s.total.toNat + 1 > Config.freqMax then .next (raise .countOverflow (zext32 sym) 0x11#8 s)
  else
    let f := s.freqAt sym + 1#32
    let t := s.total + 1#32
    .next (complete 0x11#8 f t { s.setFreq sym f with total := t })

/-- The total that FREQ_WRITE would make: TOTAL - FREQ[s] + v, exact; FREQ[s] <= TOTAL (R424, R426;
log 10). -/
def totalAfterWrite (s : State) (sym : Byte) (v : Word) : Nat :=
  s.total.toNat - (s.freqAt sym).toNat + v.toNat

/-- FREQ_WRITE (R424). -/
def execFreqWrite (sym : Byte) (s : State) : Answer :=
  let v := s.dataIn
  let t := totalAfterWrite s sym v
  if t > Config.freqMax then .next (raise .countOverflow (zext32 sym) 0x12#8 s)
  else .next (complete 0x12#8 v (word t) { s.setFreq sym v with total := word t })

/-- FREQ_READ (R425). -/
def execFreqRead (sym : Byte) (s : State) : Answer :=
  .next (complete 0x13#8 (s.freqAt sym) s.total s)

end Machine
end Sys2Proof
end

