-- ==== Sys2Proof/Machine/Serializer.lean ====
section
/-! DEFINITION. The Tree Serializer and Deserializer commands (46_serializer.md). -/

namespace Sys2Proof
namespace Machine

/-- The node records of a tree in pre-order: the node, its LEFT subtree, its RIGHT subtree (R521, R523). -/
def HTree.records : HTree → List Word
  | .leaf sym f => [leafHeader sym, f]
  | .node f l r => innerHeader :: f :: (l.records ++ r.records)

/-- SER_BUILD (R524, R525; log 10). -/
def execSerBuild (s : State) : Answer :=
  if s.treeValid = false then
    .next (complete 0x60#8 1#32 0#32 { s with serbuf := s.serbuf.write 0 (imageHeader 0) })
  else
    match s.tree with
    | .error e => .fault e
    | .ok t =>
        let n := s.nnodes.toNat
        .next (complete 0x60#8 (word (1 + 2 * n)) (word n)
          { s with serbuf := s.serbuf.writeFrom 0 (imageHeader n :: t.records) })

/-- SER_READ (R526). -/
def execSerRead (idx : BitVec 10) (s : State) : Answer :=
  if idx.toNat > 1022 then .next (raise .argRange (zext32 idx) 0x61#8 s)
  else .next (complete 0x61#8 (s.serWord idx.toNat) 0#32 s.drawn)

/-- DES_WRITE (R528). -/
def execDesWrite (idx : BitVec 10) (s : State) : Answer :=
  if idx.toNat > 1022 then .next (raise .argRange (zext32 idx) 0x62#8 s)
  else .next (complete 0x62#8 0#32 0#32 { s with serbuf := s.serbuf.write idx.toNat s.dataIn })

/-! ### The parse -/

/-- The tree whose first node record has pre-order number `p` (R529 node()): the tree, the number of
the record after its last, and the leaf symbols seen so far; or the index of the first violation.
`endw` is 1 + 2n. A tree with n < 512 records is less than `depth` = 512 levels deep, so that at depth
0 the record needed is beyond `endw` and the answer is the one R529 gives (log 14). -/
def parseNode (img : Nat → Word) (endw : Nat) :
    (depth : Nat) → (p : Nat) → (seen : List Byte) → Except Nat (HTree × Nat × List Byte)
  | 0, p, _ => .error (1 + 2 * p)
  | depth + 1, p, seen =>
      let pos := 1 + 2 * p
      if pos ≥ endw then .error pos
      else
        let hw := img pos
        let f := img (pos + 1)
        let sym : Byte := hw.extractLsb' 0 8
        let flags : BitVec 3 := hw.extractLsb' 24 3
        if hw.extractLsb' 28 4 ≠ 0xA#4 ∨ hw.getLsbD 27 = true ∨ hw.extractLsb' 8 16 ≠ 0#16 then
          .error pos
        else if flags = 0b100#3 then
          if f = 0#32 then .error (pos + 1)
          else if sym ∈ seen then .error pos
          else .ok (.leaf sym f, p + 1, sym :: seen)
        else if flags = 0b011#3 then
          if sym ≠ 0#8 then .error pos
          else
            match parseNode img endw depth (p + 1) seen with
            | .error e => .error e
            | .ok (l, p1, seen1) =>
                match parseNode img endw depth p1 seen1 with
                | .error e => .error e
                | .ok (r, p2, seen2) =>
                    if f.toNat ≠ l.freq.toNat + r.freq.toNat then .error (pos + 1)
                    else .ok (.node f l r, p2, seen2)
        else .error pos

/-- The stream header is good (R522, R529): MAGIC, VERSION 1, reserved bits 0, COUNT at most 511. -/
def headerOk (h : Word) : Bool :=
  h.extractLsb' 16 16 == 0x4854#16 && h.extractLsb' 12 4 == 1#4 && h.extractLsb' 10 2 == 0#2
    && decide ((h.extractLsb' 0 10).toNat ≤ Config.maxNodes)

/-- COUNT, the number of nodes of an image (R522). -/
def headerCount (h : Word) : Nat := (h.extractLsb' 0 10).toNat

/-- parse_image() (R529): the tree, or none for the empty image, or the index of the first violation. -/
def parseImage (img : Nat → Word) : Except Nat (Option HTree) :=
  let h := img 0
  if headerOk h = false then .error 0
  else
    let n := headerCount h
    if n = 0 then .ok none
    else
      match parseNode img (1 + 2 * n) 512 0 [] with
      | .error e => .error e
      | .ok (t, p, _) => if p ≠ n then .error (1 + 2 * p) else .ok (some t)

/-- The arena of a tree in pre-order from index `i` on: children by their pre-order numbers (R529, R533). -/
def HTree.layout : HTree → Nat → List Node
  | .leaf sym f, _ => [.leaf sym f]
  | .node f l r, i =>
      .inner f (BitVec.ofNat 9 (i + 1)) (BitVec.ofNat 9 (i + 1 + l.size))
        :: (l.layout (i + 1) ++ r.layout (i + 1 + l.size))

/-- The state after DES_RUN (R530), given what the parse found. -/
def desRunResult (s : State) : Except Nat (Option HTree) → State
  | .error pos => raise .serializationFormat (word pos) 0x63#8 s
  | .ok none => complete 0x63#8 0#32 0#32 (unloadTree s)
  | .ok (some t) =>
      complete 0x63#8 (word t.size) (word t.leaves) (loadTree (t.layout 0) 0#9 t.leaves s)

/-- DES_RUN (R530). It reads SERBUF, so the next reader draws afresh (log 2). -/
def execDesRun (s : State) : Answer := .next (desRunResult s.drawn (parseImage s.serWord))

end Machine
end Sys2Proof
end

