-- ==== Sys2Proof/Machine/TreeBuilder.lean ====
section
/-! DEFINITION. The Tree Builder commands (42_tree_builder.md). -/

namespace Sys2Proof
namespace Machine

/-- The key of a node of the working set (R444): its frequency, then its arena index. -/
structure Key where
  freq : Nat
  idx : Nat
  deriving DecidableEq, Repr

/-- Lexicographic order on (F, index) (R13, R444). -/
def Key.before (a b : Key) : Bool :=
  decide (a.freq < b.freq) || (decide (a.freq = b.freq) && decide (a.idx < b.idx))

/-- The node of the working set with the least key, and the working set without it (R444). -/
def takeLeast : List Key → Option (Key × List Key)
  | [] => none
  | k :: ks =>
      match takeLeast ks with
      | none => some (k, [])
      | some (m, rest) => if k.before m then some (k, ks) else some (m, k :: rest)

/-- The leaves in arena order (R442): one for each symbol with a count, in ascending order of symbol. -/
def leafNodes (s : State) : List Node :=
  (List.range 256).filterMap fun n =>
    let sym := BitVec.ofNat 8 n
    if s.freqAt sym = 0#32 then none else some (.leaf sym (s.freqAt sym))

/-- The merges (R443, R444): while two nodes remain, the first selected becomes LEFT and the second
RIGHT of a new node at the next free index. `merges` bounds their number (R443: there are k - 1).
Every sum fits its word (R447; log 10). -/
def mergeAll : (merges : Nat) → (arena : List Node) → (work : List Key) → List Node
  | 0, arena, _ => arena
  | merges + 1, arena, work =>
      match takeLeast work with
      | none => arena
      | some (a, work1) =>
          match takeLeast work1 with
          | none => arena
          | some (b, work2) =>
              let f := a.freq + b.freq
              let node := Node.inner (word f) (BitVec.ofNat 9 a.idx) (BitVec.ofNat 9 b.idx)
              mergeAll merges (arena ++ [node]) (⟨f, arena.length⟩ :: work2)

/-- The arena that BUILD makes of its leaves; the root is its last entry (R441, R443). -/
def builtArena (leaves : List Node) : List Node :=
  mergeAll leaves.length leaves (leaves.mapIdx fun i e => ⟨e.freq.toNat, i⟩)

/-- BUILD (R441, R448). -/
def execBuild (s : State) : Answer :=
  if s.total = 0#32 then .next (raise .emptyInput 0#32 0x20#8 s)
  else
    match leafNodes s with
    | [] => .fault .noSymbolCounted
    | leaf :: leaves =>
        let arena := builtArena (leaf :: leaves)
        let root := BitVec.ofNat 9 (arena.length - 1)
        .next (complete 0x20#8 (zext32 root) (word arena.length)
          (loadTree arena root (leaf :: leaves).length s))

/-- TREE_CLEAR (R451). -/
def execTreeClear (s : State) : Answer := .next (complete 0x21#8 0#32 0#32 (unloadTree s))

/-- NODE_READ (R452). -/
def execNodeRead (idx : BitVec 10) (s : State) : Answer :=
  if idx.toNat ≥ s.nnodes.toNat then .next (raise .argRange (zext32 idx) 0x22#8 s)
  else
    match s.arena[idx.toNat]? with
    | none => .fault .arenaEntryAbsent
    | some e => .next (complete 0x22#8 (nodeWord e) e.freq s)

end Machine
end Sys2Proof
end

