-- ==== Sys2Proof/Machine/Dispatch.lean ====
section
/-! DEFINITION. One arm per command (30_encoding.md R304), each the meaning its rule gives. -/

namespace Sys2Proof
namespace Machine

def exec (i : Instr) (s : State) : Host.Outcome State Fault Refusal :=
  match i with
  | .nop => Sys2Proof.Machine.execNop s
  | .softReset => Sys2Proof.Machine.execSoftReset s
  | .errClear => Sys2Proof.Machine.execErrClear s
  | .freqClear => Sys2Proof.Machine.execFreqClear s
  | .freqCount sym => Sys2Proof.Machine.execFreqCount sym s
  | .freqWrite sym => Sys2Proof.Machine.execFreqWrite sym s
  | .freqRead sym => Sys2Proof.Machine.execFreqRead sym s
  | .build => Sys2Proof.Machine.execBuild s
  | .treeClear => Sys2Proof.Machine.execTreeClear s
  | .nodeRead idx => Sys2Proof.Machine.execNodeRead idx s
  | .genCodes => Sys2Proof.Machine.execGenCodes s
  | .codeRead sym wrd => Sys2Proof.Machine.execCodeRead sym wrd s
  | .encClear => Sys2Proof.Machine.execEncClear s
  | .encSym sym => Sys2Proof.Machine.execEncSym sym s
  | .outPop => Sys2Proof.Machine.execOutPop s
  | .decReset => Sys2Proof.Machine.execDecReset s
  | .decBit bit => Sys2Proof.Machine.execDecBit bit s
  | .decWord cnt => Sys2Proof.Machine.execDecWord cnt s
  | .decEnd => Sys2Proof.Machine.execDecEnd s
  | .serBuild => Sys2Proof.Machine.execSerBuild s
  | .serRead idx => Sys2Proof.Machine.execSerRead idx s
  | .desWrite idx => Sys2Proof.Machine.execDesWrite idx s
  | .desRun => Sys2Proof.Machine.execDesRun s

end Machine
end Sys2Proof
end

