-- ==== Sys2Proof/Machine/Window.lean ====
section
/-! DEFINITION. The register window (10_state.md R110, 20_memory.md R200 to R208), the command cycle
(30_encoding.md R305), and the moves of the outside world. -/

namespace Sys2Proof
namespace Machine

/-- The offset of a register in the window (R110). -/
def regOffset : Reg → Nat
  | .id => 0x00
  | .params => 0x04
  | .cmd => 0x08
  | .dataIn => 0x0C
  | .status => 0x10
  | .result0 => 0x14
  | .result1 => 0x18
  | .treeInfo => 0x1C
  | .freqTotal => 0x20
  | .decInfo => 0x24
  | .decCount => 0x28
  | .encInfo => 0x2C
  | .encBits => 0x30
  | .reserved34 => 0x34
  | .reserved38 => 0x38
  | .reserved3C => 0x3C

/-- The register at a word offset of the window (R110); none for any other offset. -/
def regAt : Nat → Option Reg
  | 0x00 => some .id
  | 0x04 => some .params
  | 0x08 => some .cmd
  | 0x0C => some .dataIn
  | 0x10 => some .status
  | 0x14 => some .result0
  | 0x18 => some .result1
  | 0x1C => some .treeInfo
  | 0x20 => some .freqTotal
  | 0x24 => some .decInfo
  | 0x28 => some .decCount
  | 0x2C => some .encInfo
  | 0x30 => some .encBits
  | 0x34 => some .reserved34
  | 0x38 => some .reserved38
  | 0x3C => some .reserved3C
  | _ => none

/-- What a host read of a register returns (R120 to R132); CMD and the reserved offsets read 0. -/
def readReg (r : Reg) (s : State) : Word :=
  match r with
  | .id => idWord
  | .params => paramsWord s
  | .cmd => 0#32
  | .dataIn => s.dataIn
  | .status => statusWord s
  | .result0 => s.result0
  | .result1 => s.result1
  | .treeInfo => treeInfoWord s
  | .freqTotal => s.total
  | .decInfo => decInfoWord s
  | .decCount => s.decCount
  | .encInfo => encInfoWord s
  | .encBits => s.encBits
  | .reserved34 => 0#32
  | .reserved38 => 0#32
  | .reserved3C => 0#32

/-- The command cycle (R305): BUSY rises, the word is decoded, and the command runs, or
ILLEGAL_COMMAND is raised with the word as detail (R306). -/
def submit (w : Word) (s : State) : Answer :=
  match decode w with
  | .ok i => exec i { s with busy := true }
  | .error _ => .next (raise .illegalCommand w (opcOf w) s)

/-- A host write of a word to a register (R122, R123, R208): CMD submits a command, DATA_IN stores, and
every other register ignores it. While BUSY = 1 the host has no write to CMD or DATA_IN (HST1; log 6). -/
def writeReg (r : Reg) (w : Word) (s : State) : Answer :=
  match r with
  | .cmd => if s.busy then .refused .hostWriteWhileBusy else submit w s
  | .dataIn => if s.busy then .refused .hostWriteWhileBusy else .next { s with dataIn := w }
  | .id | .params | .status | .result0 | .result1 | .treeInfo | .freqTotal | .decInfo | .decCount
  | .encInfo | .encBits | .reserved34 | .reserved38 | .reserved3C => .next s

/-- Some byte of the access lies in the window (log 7). Addresses do not wrap (log 20). -/
def touchesWindow (p : Params) (addr width : Nat) : Bool :=
  decide (0 < width) && decide (p.base < addr + width) && decide (addr < p.base + Config.windowBytes)

/-- The register of an aligned 32-bit access (R201, R203); none for an access of any other form. -/
def wordAccess (p : Params) (addr width : Nat) : Option Reg :=
  if width = 4 ∧ p.base ≤ addr then regAt (addr - p.base) else none

/-- The byte lanes of the answer to a bus read (R203, R204): the register's, or zeros for an access of
any other form. -/
def readLanes (addr width : Nat) (s : State) : List Byte :=
  match wordAccess s.params addr width with
  | some r => lanesOf (readReg r s)
  | none => List.replicate width 0#8

/-- One move of the outside world: a bus access (R203, R208; one outside the window is refused, BUS4)
or the reset input (R701). -/
def hostMove (m : HostMove) (s : State) : Answer :=
  match m with
  | .read addr width =>
      if touchesWindow s.params addr width then
        .next { s with readData := readLanes addr width s }
      else .refused .accessOutsideWindow
  | .write addr lanes =>
      if touchesWindow s.params addr lanes.length then
        match wordAccess s.params addr lanes.length, wordOfLanes lanes with
        | some r, some w => writeReg r w s
        | _, _ => .next s
      else .refused .accessOutsideWindow
  | .reset => .next (hardReset s)

/-- The bus write that submits the command word `w` (R122, R201). -/
def cmdWrite (p : Params) (w : Word) : HostMove := .write (p.base + regOffset .cmd) (lanesOf w)

end Machine
end Sys2Proof
end

