-- ==== Sys2Proof/Machine/Step.lean ====
section
/-! DEFINITION. One step: the oldest move of the outside world that has not happened yet happens, and the
command it may submit runs, as one atomic step (20_memory.md R209, R212). With no move to come the block
is idle and keeps all its state (60_exceptions.md R613). The block has no program counter and fetches
nothing (10_state.md R101): its program is the host's own sequence of accesses (log 5). -/

namespace Sys2Proof
namespace Machine

/-- One step of the block and the world outside it. -/
def step (s : State) : Host.Outcome State Fault Refusal :=
  match s.bus with
  | [] => .next s
  | m :: rest => hostMove m { s with bus := rest }

/-- `s` with the bus write that submits the table's word `w` as the very next move of the host, and BUSY
at 0, which the host waits for before it writes CMD (R710; log 5). -/
def State.withFetchWord (s : State) (nbits w : Nat) : State :=
  { s with busy := false, bus := cmdWrite s.params (tableWord nbits w) :: s.bus }

end Machine
end Sys2Proof
end

