-- ==== Sys2Proof/Machine/Assembler.lean ====
section
/-! DEFINITION. What the statements of a host program do on the bus (30_encoding.md R309, R310). -/

namespace Sys2Proof
namespace Machine

/-- `wr REG, value` (R309): MemWrite(BASE + offset(REG), 4, value). -/
def busWrite (p : Params) (r : Reg) (v : Word) : HostMove := .write (p.base + regOffset r) (lanesOf v)

/-- `rd REG` (R309): MemRead(BASE + offset(REG), 4). -/
def busRead (p : Params) (r : Reg) : HostMove := .read (p.base + regOffset r) 4

/-- `poll` (R309): reads of STATUS until BUSY is 0. BUSY is 0 at every point the host can observe in the
model (R140), so one read is enough (log 12). -/
def pollMoves (p : Params) : List HostMove := [busRead p .status]

/-- A command statement (R309): the bus write of its word to CMD, then poll. -/
def commandMoves (p : Params) (i : Instr) : List HostMove := busWrite p .cmd (encode i) :: pollMoves p

/-- The moves of a statement, each pseudo-instruction by its expansion (R310). DESIGN CHOICE (log 19): R310 gives
no expansion for a DES_IMAGE of no value, whose form names at least v0, nor for one of more than 1024 values,
since IDX is 0 to 1023 (R303). `Stmt.wf` refuses both; here the first is no move, and the second takes its
indices modulo 1024. -/
def stmtMoves (p : Params) : Stmt → List HostMove
  | .command i => commandMoves p i
  | .wr r v => [busWrite p r v]
  | .rd r => [busRead p r]
  | .poll => pollMoves p
  | .freqLoad sym v => busWrite p .dataIn v :: commandMoves p (.freqWrite sym)
  | .decLoad bits cnt => busWrite p .dataIn bits :: commandMoves p (.decWord cnt)
  | .desLoad idx v => busWrite p .dataIn v :: commandMoves p (.desWrite idx)
  | .count text => text.flatMap fun c => commandMoves p (.freqCount c)
  | .encode text => text.flatMap fun c => commandMoves p (.encSym c)
  | .decodeBits bits => bits.flatMap fun b => commandMoves p (.decBit b)
  | .desImage values =>
      (values.mapIdx fun i v =>
        busWrite p .dataIn v :: commandMoves p (.desWrite (BitVec.ofNat 10 i))).flatten

/-- A straight-line host program placed on the bus, after the moves already there (log 5). -/
def State.withProgram (s : State) (program : List Stmt) : State :=
  { s with bus := s.bus ++ program.flatMap (stmtMoves s.params) }

end Machine
end Sys2Proof
end

