-- ==== Sys2Proof/Safety.lean ====
section
/-! DEFINITION. What counts as a safe state, in the terms claims use: the laws the spec states of every
state of the block (10_state.md R141 to R161, 41_frequency.md R420), and the vocabulary in which the
statements of Certificates/ speak of commands, runs of commands and paths in the arena. -/

namespace Sys2Proof
namespace Machine

/-! ### Paths in the arena -/

/-- The entry reached from entry `i` by following a path, label 0 to LEFT and 1 to RIGHT (R462). -/
def follow (arena : List Node) : NodeIdx → List Bool → Option Node
  | i, [] => arena[i.toNat]?
  | i, b :: bs =>
      match arena[i.toNat]? with
      | some (.inner _ l r) => follow arena (if b then r else l) bs
      | _ => none

/-- The indices met from entry `i` on in pre-order, LEFT before RIGHT (R521), at most `depth` levels down. -/
def reach (arena : List Node) : (depth : Nat) → NodeIdx → List Nat
  | 0, _ => []
  | depth + 1, i =>
      i.toNat ::
        match arena[i.toNat]? with
        | some (.inner _ l r) => reach arena depth l ++ reach arena depth r
        | _ => []

/-- R144 (c) and (e) for one entry: a leaf has F >= 1; an internal node has both children among the
entries and F their exact sum. -/
def nodeLawful (arena : List Node) : Node → Bool
  | .leaf _ f => decide (1 ≤ f.toNat)
  | .inner f l r =>
      match arena[l.toNat]?, arena[r.toNat]? with
      | some a, some b => decide (f.toNat = a.freq.toNat + b.freq.toNat)
      | _, _ => false

/-! ### The laws of the state -/

/-- R141, R420: TOTAL is the exact sum of FREQ[0..255]. (It is a 32-bit word, so it is at most FREQ_MAX.) -/
def FreqLaw (s : State) : Prop := s.total.toNat = (s.freq.toList.map BitVec.toNat).sum

/-- The tree invariant (R144) for the entries NODE[0..NNODES). Clause (f) is the width of F. -/
structure TreeLaw (s : State) : Prop where
  /-- The entries of the tree are entries that have been written. -/
  stored : s.nnodes.toNat ≤ s.nodes.length
  /-- (a) -/
  counts : s.nnodes.toNat = 2 * s.nleaves.toNat - 1 ∧ 1 ≤ s.nleaves.toNat ∧ s.nleaves.toNat ≤ 256
  /-- R126: NLEAVES is the number of leaves. -/
  leavesCounted : (s.arena.filter Node.isLeaf).length = s.nleaves.toNat
  /-- (b): ROOT < NNODES. -/
  rootInside : s.root.toNat < s.nnodes.toNat
  /-- (b): every index is reached from ROOT exactly once. -/
  reachedOnce : (reach s.arena Config.maxNodes s.root).Perm (List.range s.nnodes.toNat)
  /-- (c) and (e) -/
  lawful : ∀ e ∈ s.arena, nodeLawful s.arena e = true
  /-- (d) -/
  symbolsDistinct : ((s.arena.filter Node.isLeaf).map Node.symbol).Nodup

/-- R143: with no tree the tree registers are at NIL and 0; with one, R144 holds. -/
def TreeRegistersLaw (s : State) : Prop :=
  (s.treeValid = false →
      s.root = Config.nil ∧ s.nnodes = 0#9 ∧ s.nleaves = 0#9 ∧ s.codesValid = false) ∧
  (s.treeValid = true → TreeLaw s)

/-- R150: with a tree, DEC_NODE is ROOT or an internal node of it; with none, it is NIL. -/
def DecoderLaw (s : State) : Prop :=
  (s.treeValid = false → s.decNode = Config.nil) ∧
  (s.treeValid = true →
      s.decNode = s.root ∨ ∃ f l r, s.nodeAt s.decNode = some (.inner f l r))

/-- R145: CODES_VALID = 1 iff the table is the one GEN_CODES makes of the loaded tree; at 0 every LEN is 0. -/
def CodeLaw (s : State) : Prop :=
  (s.codesValid = false → ∀ sym, s.codeAt sym = []) ∧
  (s.codesValid = true →
      s.treeValid = true ∧ ∃ t, s.tree = .ok t ∧ s.code = codeTable t.codes)

/-- R160, R161, R142: OBUF holds at most OBUF_BITS bits, SERBUF's list is in its canonical form, and the
arena has at most 511 entries. -/
def BufferLaw (s : State) : Prop :=
  s.obuf.length ≤ s.params.obufBits ∧ s.serbuf.wf = true ∧ s.nodes.length ≤ Config.maxNodes

/-- A state of the block as a host can find it between two commands: the laws above, the parameters of
some build, and BUSY = 0 (R140). -/
structure Inv (s : State) : Prop where
  params : s.params.wf = true
  idle : s.busy = false
  freq : FreqLaw s
  tree : TreeRegistersLaw s
  decoder : DecoderLaw s
  codes : CodeLaw s
  buffers : BufferLaw s

/-! ### How statements speak of commands -/

/-- A command ended normally with these results (R305). -/
def Reports (t : State) (opc : Byte) (r0 r1 : Word) : Prop :=
  t.busy = false ∧ t.lastErr = .ok ∧ t.lastOpc = opc ∧ t.result0 = r0 ∧ t.result1 = r1

/-- The state that `raise E(info)` leaves of `s` (R602), every field written out. -/
def raisedState (e : ErrCode) (info : Word) (opc : Byte) (s : State) : State :=
  { s with busy := false, lastErr := e, lastOpc := opc, errSticky := true,
           result0 := info, result1 := 0#32 }

/-- `s` with the report of `t`: BUSY, LAST_ERR, LAST_OPC, RESULT0 and RESULT1. A frame is said as
`t = { withReport t s with <the fields the command writes> := t.<field> }`: everything else of `s`
is unchanged. -/
def withReport (t s : State) : State :=
  { s with busy := t.busy, lastErr := t.lastErr, lastOpc := t.lastOpc,
           result0 := t.result0, result1 := t.result1 }

/-- `t` after the poll that follows a command (R309): the host has read STATUS. -/
def polled (t : State) : State := { t with readData := lanesOf (statusWord t) }

/-- The commands one after the other, each from the state the one before left. -/
def runCommands : List Instr → State → Answer
  | [], s => .next s
  | i :: is, s =>
      match exec i s with
      | .next t => runCommands is t
      | .fault f => .fault f
      | .refused r => .refused r

/-- The symbol a Decoder command has just emitted, if any (R503: bit 31 of RESULT0, bits [7:0]). -/
def emittedBy (t : State) : List Byte :=
  if t.result0.getLsbD 31 then [t.result0.extractLsb' 0 8] else []

/-- One DEC_BIT per bit, collecting the emitted symbols; none if one of them does not succeed. -/
def feedBits : List Bool → State → Option (List Byte × State)
  | [], s => some ([], s)
  | b :: bs, s =>
      match exec (.decBit b) s with
      | .next t =>
          if t.lastErr = .ok then
            match feedBits bs t with
            | some (out, u) => some (emittedBy t ++ out, u)
            | none => none
          else none
      | _ => none

/-- DEC_BITs up to the first that emits a symbol (R507): the state reached and the bits consumed; none if
one of them does not succeed. -/
def feedUntilSymbol : List Bool → State → Option (State × Nat)
  | [], s => some (s, 0)
  | b :: bs, s =>
      match exec (.decBit b) s with
      | .next t =>
          if t.lastErr = .ok then
            if t.result0.getLsbD 31 then some (t, 1)
            else
              match feedUntilSymbol bs t with
              | some (u, n) => some (u, n + 1)
              | none => none
          else none
      | _ => none

/-- The first `n` bits of a packed word (R205). -/
def unpackBits (d : Word) (n : Nat) : List Bool := (List.range n).map fun t => d.getLsbD (31 - t)

/-- The bits that a command has just handed to the host: those of OUT_POP (R486). -/
def poppedBy (i : Instr) (t : State) : List Bool :=
  if i = .outPop then unpackBits t.result0 t.result1.toNat else []

/-- Commands one after the other, collecting the bits popped; none if one of them does not succeed. -/
def encodeRun : List Instr → State → Option (List Bool × State)
  | [], s => some ([], s)
  | i :: is, s =>
      match exec i s with
      | .next t =>
          if t.lastErr = .ok then
            match encodeRun is t with
            | some (out, u) => some (poppedBy i t ++ out, u)
            | none => none
          else none
      | _ => none

/-- The symbols of the ENC_SYMs among some commands, in order. -/
def encodedSymbols (is : List Instr) : List Byte :=
  is.filterMap fun i => match i with
    | .encSym sym => some sym
    | _ => none

/-- Entry `j` is in BUILD's working set when entry `n` is made (R441, R443): it has been made, and none of
the internal nodes made so far, from index `k` on, has it as a child. -/
def inWorkingSet (arena : List Node) (k n j : Nat) : Prop :=
  j < n ∧ ∀ m, k ≤ m → m < n → ∀ f l r, arena[m]? = some (.inner f l r) → l.toNat ≠ j ∧ r.toNat ≠ j

/-- The key (F, index) of entry `j` (R444). -/
def keyAt (arena : List Node) (j : Nat) : Key := ⟨((arena[j]?.map Node.freq).getD 0#32).toNat, j⟩

/-- The symbols that have a count, ascending (R442). -/
def countedSymbols (s : State) : List Byte :=
  ((List.range 256).map (BitVec.ofNat 8)).filter fun sym => s.freqAt sym ≠ 0#32

/-- The node header word of an arena entry in an image (R523). -/
def recordHeader (e : Node) : Word :=
  if e.isLeaf then 0xA4000000#32 ||| zext32 e.symbol else 0xA3000000#32

/-- The words of a tree image, as R521 to R523 give them for a tree whose entries in pre-order are `es`. -/
def imageWords (es : List Node) : List Word :=
  (0x48541000#32 ||| word es.length) :: es.flatMap fun e => [recordHeader e, e.freq]

/-- The leaf symbols of a tree in pre-order. -/
def HTree.symbols : HTree → List Byte
  | .leaf sym _ => [sym]
  | .node _ l r => l.symbols ++ r.symbols

/-- A tree's subtrees in pre-order: number `j` is the one whose first record is record `j` (R521). -/
def HTree.subtrees : HTree → List HTree
  | .leaf sym f => [.leaf sym f]
  | .node f l r => .node f l r :: (l.subtrees ++ r.subtrees)

/-- The node header word of a tree's root (R523). -/
def HTree.header : HTree → Word
  | .leaf sym _ => 0xA4000000#32 ||| zext32 sym
  | .node _ _ _ => 0xA3000000#32

/-- The root of a tree, if internal, carries the exact sum of its children's F (R144 (e)). -/
def HTree.sumExact : HTree → Bool
  | .leaf _ _ => true
  | .node f l r => decide (f.toNat = l.freq.toNat + r.freq.toNat)

/-- The symbols of the leaves among a tree's first `p` records. -/
def HTree.symbolsBefore (h : HTree) (p : Nat) : List Byte :=
  (h.subtrees.take p).filterMap fun u => match u with
    | .leaf sym _ => some sym
    | .node _ _ _ => none

/-- The leaves among a tree's first `p` records have F >= 1 and distinct symbols (R144 (d), (e)). -/
def HTree.leavesGoodBefore (h : HTree) (p : Nat) : Prop :=
  (∀ sym f, HTree.leaf sym f ∈ h.subtrees.take p → f ≠ 0#32) ∧ (h.symbolsBefore p).Nodup

/-- Every leaf has F >= 1 and every internal node has the exact sum of its children's F (R144 (e)). -/
def HTree.sumsExact : HTree → Bool
  | .leaf _ f => decide (1 ≤ f.toNat)
  | .node f l r => l.sumsExact && r.sumsExact && decide (f.toNat = l.freq.toNat + r.freq.toNat)

end Machine
end Sys2Proof
end

