-- ==== Sys2Proof/Certificates/Slice0/Obligations.lean ====
section
/-! DEFINITION. The statements for the provers. Each docstring names the rule of spec/ the statement is
about; OBLIGATIONS.json quotes it. A frame is said as in `withReport`: everything not listed is
unchanged. -/

open Sys2Proof Sys2Proof.Machine

/-! ### Encoding -/

/-- R304, R302: command words written out from the spec's tables decode to their commands. -/
def Obligations.DecodingOfSpecWords : Prop :=
  decode 0x00000000#32 = .ok .nop ∧ decode 0x11000061#32 = .ok (.freqCount 0x61#8) ∧
  decode 0x220001FE#32 = .ok (.nodeRead 0x1FE#10) ∧ decode 0x31000162#32 = .ok (.codeRead 0x62#8 1#3) ∧
  decode 0x42000000#32 = .ok .outPop ∧ decode 0x51000001#32 = .ok (.decBit true) ∧
  decode 0x5200000E#32 = .ok (.decWord 14#6) ∧ decode 0x610003FF#32 = .ok (.serRead 0x3FF#10)

/-- R302 to R304, R307: for every command, with every operand value, decoding its encoding gives it back, and a
word that decodes to a command is the one word that command encodes to. -/
def Obligations.DecodeAndEncodeAreInverse : Prop :=
  (∀ i : Instr, decode (encode i) = .ok i) ∧
  (∀ (w : Word) (i : Instr), decode w = .ok i → encode i = w)

/-- R308: a word decodes to the command, fields and all, of the one row of the opcode table that covers it,
and to nothing where no row does; no two rows cover the same word. -/
def Obligations.DecodeAgreesWithTheOpcodeTable : Prop :=
  ∀ w : Word,
    (∀ i, decode w = .ok i → encode i = w ∧
      ∃ r ∈ tableRows, r.covers w = true ∧ r.mnemonic = mnemonicOf i) ∧
    (∀ r ∈ tableRows, r.covers w = true → ∃ i, decode w = .ok i) ∧
    (∀ r ∈ tableRows, ∀ r' ∈ tableRows, r.covers w = true → r'.covers w = true → r = r')

/-- R306: a step that writes to CMD a word with an unassigned opcode, or with a reserved IMM bit set under its
opcode's format, raises ILLEGAL_COMMAND with the word as detail and changes nothing else. -/
def Obligations.IllegalWordRaisesIllegalCommand : Prop :=
  ∀ (s : State) (w : Word) (rest : List HostMove),
    s.busy = false → s.bus = cmdWrite s.params w :: rest →
    (let o := (opcOf w).toNat
     (0x03 ≤ o ∧ o ≤ 0x0F) ∨ (0x14 ≤ o ∧ o ≤ 0x1F) ∨ (0x23 ≤ o ∧ o ≤ 0x2F) ∨ (0x32 ≤ o ∧ o ≤ 0x3F) ∨
     (0x43 ≤ o ∧ o ≤ 0x4F) ∨ (0x54 ≤ o ∧ o ≤ 0x5F) ∨ 0x64 ≤ o ∨
     (∃ r ∈ tableRows, opcOf r.pattern = opcOf w ∧ w &&& r.mask ≠ r.pattern)) →
    step s = .next (raisedState .illegalCommand w (opcOf w) { s with bus := rest })

/-- R204, R205: lane j of a word is its bits [8j+7:8j], and the four lanes give the word back; bits packed into a
word come back in their order, the first from bit 31, and the unused low bits are 0. -/
def Obligations.BytesAndBitsStandInOrder : Prop :=
  (∀ w : Word, wordOfLanes (lanesOf w) = some w ∧
    ∀ j, j < 4 → (lanesOf w)[j]? = some (w.extractLsb' (8 * j) 8)) ∧
  (∀ bits : List Bool, bits.length ≤ 32 →
    unpackBits (packBits bits) bits.length = bits ∧
    ∀ t, t < 32 - bits.length → (packBits bits).getLsbD t = false)

/-! ### Steps and the host's moves -/

/-- R305, R122: when the next move of the host is the bus write of a command's word to CMD and BUSY is 0,
the step is exec of that command, with BUSY raised and the move taken off the bus. -/
def Obligations.StepRunsTheSubmittedCommand : Prop :=
  ∀ (s : State) (w : Word) (i : Instr) (rest : List HostMove),
    s.busy = false → decode w = .ok i → s.bus = cmdWrite s.params w :: rest →
    step s = exec i { s with bus := rest, busy := true }

/-- R613: with nothing to do the block is idle and keeps all its state. -/
def Obligations.StepWithNoMoveIsIdle : Prop := ∀ s : State, s.bus = [] → step s = .next s

/-- R201, R204, R208: an aligned 32-bit read of a register returns its byte lanes and has no side effect. -/
def Obligations.HostReadReturnsTheRegister : Prop :=
  ∀ (s : State) (r : Reg) (rest : List HostMove),
    s.bus = .read (s.params.base + regOffset r) 4 :: rest →
    step s = .next { s with bus := rest, readData := lanesOf (readReg r s) }

/-- R203: an access that reaches the window in any other form is no command and changes no state of the
block; a read of that form returns 0. (Which accesses reach it: log 7, 20.) -/
def Obligations.OtherAccessFormsDoNothing : Prop :=
  ∀ (s : State) (addr width : Nat) (lanes : List Byte) (rest : List HostMove),
    touchesWindow s.params addr width = true →
    ¬ (width = 4 ∧ s.params.base ≤ addr ∧ (addr - s.params.base) % 4 = 0) → lanes.length = width →
    step { s with bus := .write addr lanes :: rest } = .next { s with bus := rest } ∧
    step { s with bus := .read addr width :: rest } =
      .next { s with bus := rest, readData := List.replicate width 0#8 }

/-- 93_implementation_defined.md BUS4 and HST1 (log 6, 7; addresses do not wrap, log 20): an access that touches no byte of the window is
refused, and so is a host write to CMD or DATA_IN while BUSY = 1. -/
def Obligations.UndefinedHostMovesAreRefused : Prop :=
  (∀ (s : State) (addr width : Nat) (lanes : List Byte) (rest : List HostMove),
    (addr + width ≤ s.params.base ∨ s.params.base + 64 ≤ addr) → lanes.length = width →
    step { s with bus := .write addr lanes :: rest } = .refused .accessOutsideWindow ∧
    step { s with bus := .read addr width :: rest } = .refused .accessOutsideWindow) ∧
  (∀ (s : State) (r : Reg) (v : Word) (rest : List HostMove), s.busy = true →
    r = .cmd ∨ r = .dataIn → s.bus = .write (s.params.base + regOffset r) (lanesOf v) :: rest →
    step s = .refused .hostWriteWhileBusy)

/-- R208, R123: a write to DATA_IN stores the value and does nothing else; a write to any other register
but CMD has no effect. -/
def Obligations.HostWritesOfOtherRegisters : Prop :=
  ∀ (s : State) (r : Reg) (v : Word) (rest : List HostMove),
    s.busy = false → r ≠ .cmd → s.bus = .write (s.params.base + regOffset r) (lanesOf v) :: rest →
    step s = .next (if r = .dataIn then { s with bus := rest, dataIn := v } else { s with bus := rest })

/-- R700: what every register reads and what every table holds in the reset state. -/
def Obligations.ResetStateHasTheResetValues : Prop :=
  readReg .id State.reset = 0x48554646#32 ∧ readReg .params State.reset = 0x02002008#32 ∧
  readReg .dataIn State.reset = 0#32 ∧ readReg .status State.reset = 0#32 ∧
  readReg .result0 State.reset = 0#32 ∧ readReg .result1 State.reset = 0#32 ∧
  readReg .treeInfo State.reset = 0x000001FF#32 ∧ readReg .freqTotal State.reset = 0#32 ∧
  readReg .decInfo State.reset = 0x000003FF#32 ∧ readReg .decCount State.reset = 0#32 ∧
  readReg .encInfo State.reset = 0#32 ∧ readReg .encBits State.reset = 0#32 ∧
  readReg .cmd State.reset = 0#32 ∧ readReg .reserved34 State.reset = 0#32 ∧
  readReg .reserved38 State.reset = 0#32 ∧ readReg .reserved3C State.reset = 0#32 ∧
  (∀ sym, State.reset.freqAt sym = 0#32 ∧ State.reset.codeAt sym = [])

/-- R700, R701 (log 11): the reset input puts the block in the reset state from any state. -/
def Obligations.HardwareResetFromAnyState : Prop :=
  ∀ (s : State) (rest : List HostMove), s.bus = .reset :: rest →
    step s = .next { State.reset with params := s.params, draws := s.draws, bus := rest,
                                      readData := s.readData }

/-- R120 to R132: what a host read of each register returns in every state. Each one-field register is its
field; STATUS, TREE_INFO and DEC_INFO hold their fields at their bits, and 0 in every reserved bit. -/
def Obligations.EveryRegisterReadsItsState : Prop :=
  ∀ s : State,
    (readReg .id s = 0x48554646#32 ∧ readReg .cmd s = 0#32 ∧ readReg .dataIn s = s.dataIn ∧
      readReg .result0 s = s.result0 ∧ readReg .result1 s = s.result1 ∧
      readReg .freqTotal s = s.total ∧ readReg .decCount s = s.decCount ∧
      readReg .encInfo s = word s.obuf.length ∧ readReg .encBits s = s.encBits ∧
      readReg .reserved34 s = 0#32 ∧ readReg .reserved38 s = 0#32 ∧ readReg .reserved3C s = 0#32) ∧
    ((readReg .params s).extractLsb' 0 8 = 8#8 ∧ (readReg .params s).extractLsb' 8 8 = 32#8 ∧
      (readReg .params s).extractLsb' 16 16 = BitVec.ofNat 16 s.params.obufBits) ∧
    (let w := readReg .status s
     w.getLsbD 0 = s.busy ∧ w.getLsbD 1 = s.errSticky ∧ w.extractLsb' 2 2 = 0#2 ∧
      w.extractLsb' 4 4 = errNumber s.lastErr ∧ w.extractLsb' 8 8 = s.lastOpc ∧
      w.extractLsb' 16 16 = 0#16) ∧
    (let w := readReg .treeInfo s
     w.extractLsb' 0 9 = s.root ∧ w.extractLsb' 9 9 = s.nnodes ∧ w.extractLsb' 18 9 = s.nleaves ∧
      w.getLsbD 27 = s.treeValid ∧ w.getLsbD 28 = s.codesValid ∧ w.extractLsb' 29 3 = 0#3) ∧
    (let w := readReg .decInfo s
     w.extractLsb' 0 9 = s.decNode ∧ w.getLsbD 9 = decide (s.decNode = s.root) ∧
      w.extractLsb' 10 22 = 0#22)

/-- R309, R310: each statement of a host program on the bus runs as the rules say: a command is the write of its
word to CMD and the poll's one read of STATUS (log 12), `wr` and `rd` are one access, and each pseudo-instruction
runs as its expansion. The statements whose expansion is a list of commands end where the commands
run one after the other end; DES_IMAGE stores its values at the words of SERBUF from 0 on. (An image of no value
makes no move: the model's choice, log 19.) -/
def Obligations.HostStatementsRun : Prop :=
  ∀ s : State, s.busy = false → s.bus = [] →
    let runs := fun (n : Nat) (p : Stmt) => Host.Core.run Sys2Proof.core n (s.withProgram [p])
    (∀ (i : Instr) (t : State), exec i s = .next t → runs 2 (.command i) = .next (polled t)) ∧
    (∀ (v : Word) (t : State), submit v s = .next t → runs 1 (.wr .cmd v) = .next t) ∧
    (∀ v : Word, runs 1 (.wr .dataIn v) = .next { s with dataIn := v }) ∧
    (∀ (r : Reg) (v : Word), r ≠ .cmd → r ≠ .dataIn → runs 1 (.wr r v) = .next s) ∧
    (∀ r : Reg, runs 1 (.rd r) = .next { s with readData := lanesOf (readReg r s) }) ∧
    runs 1 .poll = .next (polled s) ∧
    (∀ (sym : Byte) (v : Word), ∃ t,
      exec (.freqWrite sym) { s with dataIn := v } = .next t ∧
        runs 3 (.freqLoad sym v) = .next (polled t)) ∧
    (∀ (bits : Word) (cnt : BitVec 6) (t : State),
      exec (.decWord cnt) { s with dataIn := bits } = .next t →
        runs 3 (.decLoad bits cnt) = .next (polled t)) ∧
    (∀ (idx : BitVec 10) (v : Word), ∃ t,
      exec (.desWrite idx) { s with dataIn := v } = .next t ∧
        runs 3 (.desLoad idx v) = .next (polled t)) ∧
    (∀ text : List Byte, text ≠ [] → ∃ t, runCommands (text.map .freqCount) s = .next t ∧
        runs (2 * text.length) (.count text) = .next (polled t)) ∧
    (∀ text : List Byte, text ≠ [] → ∃ t, runCommands (text.map .encSym) s = .next t ∧
        runs (2 * text.length) (.encode text) = .next (polled t)) ∧
    (∀ (bits : List Bool) (t : State), bits ≠ [] → runCommands (bits.map .decBit) s = .next t →
        runs (2 * bits.length) (.decodeBits bits) = .next (polled t)) ∧
    (∀ values : List Word, values ≠ [] → values.length ≤ 1023 →
      ∃ t, runs (3 * values.length) (.desImage values) = .next (polled t) ∧
        (∀ j v, values[j]? = some v → t.serbuf.lookup j = some v) ∧
        (∀ j, values.length ≤ j → t.serbuf.lookup j = s.serbuf.lookup j) ∧
        values.getLast? = some t.dataIn ∧ Reports t 0x62#8 0#32 0#32 ∧
        t = { withReport t s with dataIn := t.dataIn, serbuf := t.serbuf }) ∧
    (∀ p : Stmt, p ∈ [Stmt.count [], .encode [], .decodeBits [], .desImage []] → s.withProgram [p] = s)

/-- R602: a command word that fails, an illegal one too, sets LAST_ERR, LAST_OPC, ERR_STICKY, the detail word,
RESULT1 = 0 and BUSY = 0, and no other state of the block changes. (Where it has read SERBUF, the model's own
draw counter, which is no state of the block, has advanced; log 2.) -/
def Obligations.FailedCommandChangesOnlyItsReport : Prop :=
  ∀ (w : Word) (s t : State), submit w s = .next t → t.lastErr ≠ .ok →
    ∃ d, t = { raisedState t.lastErr t.result0 (opcOf w) s with draws := d }

/-- R305, R124: every command ends with BUSY 0 and its opcode in LAST_OPC; ERR_STICKY is set by a failing
command and cleared by ERR_CLEAR and SOFT_RESET only. -/
def Obligations.EveryCommandReportsItself : Prop :=
  ∀ (i : Instr) (s t : State), exec i s = .next t →
    t.busy = false ∧ t.lastOpc = opcodeOf i ∧
    (t.lastErr ≠ .ok → t.errSticky = true) ∧
    (t.lastErr = .ok → i ≠ .errClear → i ≠ .softReset → t.errSticky = s.errSticky) ∧
    (i = .errClear ∨ i = .softReset → t.errSticky = false)

/-- R600: each error code is produced only by the commands its row names, and for the cause it names.
(ILLEGAL_COMMAND is raised before any command runs.) -/
def Obligations.EachErrorHasItsCause : Prop :=
  ∀ (i : Instr) (s t : State), exec i s = .next t →
    match t.lastErr with
    | .ok => True
    | .emptyInput => i = .build ∧ s.total = 0#32
    | .unknownSymbol => ∃ sym, i = .encSym sym ∧ (s.codeAt sym).length = 0
    | .truncatedStream =>
        (i = .decEnd ∧ s.decNode ≠ s.root) ∨
        ((∃ sym f, s.nodeAt s.root = some (Node.leaf sym f)) ∧
          (i = .decBit true ∨ ∃ cnt, i = .decWord cnt ∧ s.dataIn.getLsbD 31 = true))
    | .serializationFormat => i = .desRun ∧ ∃ pos, parseImage s.serWord = .error pos
    | .illegalCommand => False
    | .argRange =>
        (∃ idx, i = .nodeRead idx ∧ s.nnodes.toNat ≤ idx.toNat) ∨
        (∃ cnt, i = .decWord cnt ∧ (cnt.toNat = 0 ∨ 32 < cnt.toNat)) ∨
        (∃ idx, (i = .serRead idx ∨ i = .desWrite idx) ∧ idx.toNat = 1023)
    | .noTree =>
        s.treeValid = false ∧ (i = .genCodes ∨ (∃ b, i = .decBit b) ∨ ∃ cnt, i = .decWord cnt)
    | .countOverflow =>
        (∃ sym, i = .freqCount sym ∧ s.total = 0xFFFFFFFF#32) ∨
        (∃ sym, i = .freqWrite sym ∧ Config.freqMax < totalAfterWrite s sym s.dataIn)
    | .obufFull =>
        ∃ sym, i = .encSym sym ∧ s.params.obufBits < s.obuf.length + (s.codeAt sym).length

/-- R601: the detail word of each error, in RESULT0, with 0 in RESULT1. -/
def Obligations.EachErrorHasItsDetailWord : Prop :=
  ∀ (i : Instr) (s t : State), exec i s = .next t → t.lastErr ≠ .ok →
    t.result1 = 0#32 ∧
    (t.lastErr = .emptyInput ∨ t.lastErr = .noTree → t.result0 = 0#32) ∧
    (∀ sym, i = .encSym sym → t.lastErr = .unknownSymbol → t.result0 = zext32 sym) ∧
    (∀ sym, i = .encSym sym → t.lastErr = .obufFull → t.result0 = word (s.codeAt sym).length) ∧
    (∀ sym, i = .freqCount sym ∨ i = .freqWrite sym → t.result0 = zext32 sym) ∧
    (i = .decEnd → t.result0 = zext32 s.decNode) ∧
    (t.lastErr = .truncatedStream → i ≠ .decEnd → t.result0 = 0x80000000#32) ∧
    (∀ idx, i = .nodeRead idx ∨ i = .serRead idx ∨ i = .desWrite idx → t.result0 = zext32 idx) ∧
    (∀ cnt, i = .decWord cnt → t.lastErr = .argRange → t.result0 = zext32 cnt) ∧
    (i = .desRun → ∃ pos, parseImage s.serWord = .error pos ∧ t.result0 = word pos)

/-- R162: every item of the summary table is changed only by the commands its row lists, and a failing
command changes only the first two rows. (`draws` is the model's own, log 2.) -/
def Obligations.OnlyListedCommandsWriteEachItem : Prop :=
  ∀ (i : Instr) (s t : State), exec i s = .next t →
    (t.errSticky ≠ s.errSticky → t.lastErr ≠ .ok ∨ i = .errClear ∨ i = .softReset) ∧
    (t.lastErr ≠ .ok → ∃ d, t = { withReport t s with errSticky := true, draws := d }) ∧
    (t.freq ≠ s.freq ∨ t.total ≠ s.total →
      i = .freqClear ∨ (∃ sym, i = .freqCount sym) ∨ (∃ sym, i = .freqWrite sym) ∨ i = .softReset) ∧
    (t.nodes ≠ s.nodes ∨ t.root ≠ s.root ∨ t.nnodes ≠ s.nnodes ∨ t.nleaves ≠ s.nleaves ∨
        t.treeValid ≠ s.treeValid →
      i = .build ∨ i = .treeClear ∨ i = .desRun ∨ i = .softReset) ∧
    (t.code ≠ s.code ∨ t.codesValid ≠ s.codesValid →
      i = .build ∨ i = .treeClear ∨ i = .desRun ∨ i = .genCodes ∨ i = .softReset) ∧
    (t.decNode ≠ s.decNode ∨ t.decCount ≠ s.decCount →
      i = .build ∨ i = .treeClear ∨ i = .desRun ∨ i = .decReset ∨ (∃ b, i = .decBit b) ∨
        (∃ cnt, i = .decWord cnt) ∨ i = .softReset) ∧
    (t.obuf ≠ s.obuf → i = .encClear ∨ (∃ sym, i = .encSym sym) ∨ i = .outPop ∨ i = .softReset) ∧
    (t.encBits ≠ s.encBits → i = .encClear ∨ (∃ sym, i = .encSym sym) ∨ i = .softReset) ∧
    (t.serbuf ≠ s.serbuf → i = .serBuild ∨ ∃ idx, i = .desWrite idx) ∧
    (t.dataIn ≠ s.dataIn → i = .softReset) ∧
    (t.params = s.params ∧ t.bus = s.bus ∧ t.readData = s.readData)

/-! ### Control commands -/

/-- R400, R402: NOP changes nothing but the report; ERR_CLEAR clears ERR_STICKY besides. -/
def Obligations.NopAndErrClear : Prop :=
  ∀ s : State,
    (∃ t, exec .nop s = .next t ∧ Reports t 0x00#8 0#32 0#32 ∧ t = withReport t s) ∧
    (∃ t, exec .errClear s = .next t ∧ Reports t 0x02#8 0#32 0#32 ∧
      t = { withReport t s with errSticky := false })

/-- R401: the reset values, with SERBUF and the storage of NODE kept. -/
def Obligations.SoftResetKeepsSerbufAndNodes : Prop :=
  ∀ s : State, ∃ t, exec .softReset s = .next t ∧ Reports t 0x01#8 0#32 0#32 ∧
    t.errSticky = false ∧ t.dataIn = 0#32 ∧ t.total = 0#32 ∧
    (∀ sym, t.freqAt sym = 0#32 ∧ t.codeAt sym = []) ∧
    readReg .treeInfo t = 0x000001FF#32 ∧ readReg .decInfo t = 0x000003FF#32 ∧ t.decCount = 0#32 ∧
    t.obuf = [] ∧ t.encBits = 0#32 ∧
    t.serbuf = s.serbuf ∧ t.nodes = s.nodes ∧
    t.params = s.params ∧ t.draws = s.draws ∧ t.bus = s.bus ∧ t.readData = s.readData

/-! ### Frequency table -/

/-- R422. -/
def Obligations.FreqClearEmptiesTheTable : Prop :=
  ∀ s : State, ∃ t, exec .freqClear s = .next t ∧ Reports t 0x10#8 0#32 0#32 ∧
    (∀ sym, t.freqAt sym = 0#32) ∧ t.total = 0#32 ∧
    t = { withReport t s with freq := t.freq, total := t.total }

/-- R423: one more occurrence, exactly, or COUNT_OVERFLOW at TOTAL = FREQ_MAX. -/
def Obligations.FreqCountCountsOneSymbol : Prop :=
  ∀ (s : State) (sym : Byte), FreqLaw s →
    (s.total = 0xFFFFFFFF#32 →
      exec (.freqCount sym) s = .next (raisedState .countOverflow (zext32 sym) 0x11#8 s)) ∧
    (s.total ≠ 0xFFFFFFFF#32 →
      ∃ t, exec (.freqCount sym) s = .next t ∧
        (t.freqAt sym).toNat = (s.freqAt sym).toNat + 1 ∧
        (∀ u, u ≠ sym → t.freqAt u = s.freqAt u) ∧
        t.total.toNat = s.total.toNat + 1 ∧
        Reports t 0x11#8 (t.freqAt sym) t.total ∧
        t = { withReport t s with freq := t.freq, total := t.total })

/-- R424: the count becomes DATA_IN and the total follows exactly, or COUNT_OVERFLOW. -/
def Obligations.FreqWriteSetsOneCount : Prop :=
  ∀ (s : State) (sym : Byte), FreqLaw s →
    let total' : Int := (s.total.toNat : Int) - (s.freqAt sym).toNat + s.dataIn.toNat
    (total' > 4294967295 →
      exec (.freqWrite sym) s = .next (raisedState .countOverflow (zext32 sym) 0x12#8 s)) ∧
    (total' ≤ 4294967295 →
      ∃ t, exec (.freqWrite sym) s = .next t ∧
        t.freqAt sym = s.dataIn ∧ (∀ u, u ≠ sym → t.freqAt u = s.freqAt u) ∧
        (t.total.toNat : Int) = total' ∧
        Reports t 0x12#8 s.dataIn t.total ∧
        t = { withReport t s with freq := t.freq, total := t.total })

/-- R425. -/
def Obligations.FreqReadReadsOneCount : Prop :=
  ∀ (s : State) (sym : Byte), ∃ t, exec (.freqRead sym) s = .next t ∧
    Reports t 0x13#8 (s.freqAt sym) s.total ∧ t = withReport t s

/-- R421: FREQ_CLEAR and one FREQ_COUNT per symbol of a sequence of at most FREQ_MAX symbols leave the
numbers of occurrences and the length; one symbol more than FREQ_MAX raises COUNT_OVERFLOW. -/
def Obligations.CountingASequence : Prop :=
  ∀ (s : State) (S : List Byte), S.length ≤ Config.freqMax →
    ∃ t, runCommands (.freqClear :: S.map .freqCount) s = .next t ∧ t.lastErr = .ok ∧
      (∀ sym, (t.freqAt sym).toNat = S.count sym) ∧ t.total.toNat = S.length ∧
      (S.length = Config.freqMax →
        ∀ sym, exec (.freqCount sym) t = .next (raisedState .countOverflow (zext32 sym) 0x11#8 t))

/-! ### Tree Builder -/

/-- R441, R447, R448, R449: with no count BUILD raises EMPTY_INPUT; otherwise it loads a lawful tree whose root
carries TOTAL, empties the code table, puts the Decoder at the root, and leaves everything else. -/
def Obligations.BuildLoadsATree : Prop :=
  ∀ s : State, FreqLaw s →
    (s.total = 0#32 → exec .build s = .next (raisedState .emptyInput 0#32 0x20#8 s)) ∧
    (s.total ≠ 0#32 →
      ∃ t, exec .build s = .next t ∧ t.treeValid = true ∧ TreeLaw t ∧
        t.codesValid = false ∧ (∀ sym, t.codeAt sym = []) ∧ t.decNode = t.root ∧ t.decCount = 0#32 ∧
        (∃ e, t.nodeAt t.root = some e ∧ e.freq = s.total) ∧
        Reports t 0x20#8 (zext32 t.root) (zext32 t.nnodes) ∧
        t.nodes.drop t.nnodes.toNat = s.nodes.drop t.nnodes.toNat ∧
        t = { withReport t s with
              nodes := t.nodes, root := t.root, nnodes := t.nnodes, nleaves := t.nleaves,
              treeValid := t.treeValid, code := t.code, codesValid := t.codesValid,
              decNode := t.decNode, decCount := t.decCount })

/-- R442, R443, R444: the leaves stand at indices 0 to k-1 in ascending order of symbol; each later entry,
up to the root at 2k-2, merges the two entries of its working set with the least keys (F, index), the
lesser on the left. -/
def Obligations.BuildMergesTheTwoLeastNodes : Prop :=
  ∀ s : State, FreqLaw s → s.total ≠ 0#32 →
    ∃ t, exec .build s = .next t ∧
      let k := (countedSymbols s).length
      t.nleaves.toNat = k ∧ t.nnodes.toNat = 2 * k - 1 ∧ t.root.toNat = 2 * k - 2 ∧
      (∀ (i : Nat) (sym : Byte), (countedSymbols s)[i]? = some sym → t.arena[i]? = some (Node.leaf sym (s.freqAt sym))) ∧
      (∀ n, k ≤ n → n < 2 * k - 1 →
        ∃ f l r, t.arena[n]? = some (Node.inner f l r) ∧
          inWorkingSet t.arena k n l.toNat ∧ inWorkingSet t.arena k n r.toNat ∧
          (keyAt t.arena l.toNat).before (keyAt t.arena r.toNat) = true ∧
          (∀ j, inWorkingSet t.arena k n j → j ≠ l.toNat → j ≠ r.toNat →
            (keyAt t.arena r.toNat).before (keyAt t.arena j) = true) ∧
          f.toNat = (keyAt t.arena l.toNat).freq + (keyAt t.arena r.toNat).freq)

/-- R451. -/
def Obligations.TreeClearUnloadsTheTree : Prop :=
  ∀ s : State, ∃ t, exec .treeClear s = .next t ∧ Reports t 0x21#8 0#32 0#32 ∧
    readReg .treeInfo t = 0x000001FF#32 ∧ readReg .decInfo t = 0x000003FF#32 ∧
    (∀ sym, t.codeAt sym = []) ∧ t.decCount = 0#32 ∧
    t = { withReport t s with
          root := t.root, nnodes := t.nnodes, nleaves := t.nleaves, treeValid := t.treeValid,
          code := t.code, codesValid := t.codesValid, decNode := t.decNode, decCount := t.decCount }

/-- R452, R142: an entry below NNODES is read field by field, a leaf with NIL children and an internal entry
with SYM 0; any other index raises ARG_RANGE. -/
def Obligations.NodeReadReadsOneEntry : Prop :=
  ∀ (s : State) (idx : BitVec 10),
    (s.nnodes.toNat ≤ idx.toNat →
      exec (.nodeRead idx) s = .next (raisedState .argRange (zext32 idx) 0x22#8 s)) ∧
    (idx.toNat < s.nnodes.toNat → s.nnodes.toNat ≤ s.nodes.length →
      ∃ e t, s.arena[idx.toNat]? = some e ∧ exec (.nodeRead idx) s = .next t ∧
        (∀ sym f, e = Node.leaf sym f →
          t.result0.getLsbD 31 = true ∧ t.result0.extractLsb' 18 9 = 0x1FF#9 ∧
          t.result0.extractLsb' 9 9 = 0x1FF#9 ∧ t.result0.extractLsb' 0 8 = sym ∧ t.result1 = f) ∧
        (∀ f l r, e = Node.inner f l r →
          t.result0.getLsbD 31 = false ∧ t.result0.extractLsb' 18 9 = l ∧
          t.result0.extractLsb' 9 9 = r ∧ t.result0.extractLsb' 0 8 = 0#8 ∧ t.result1 = f) ∧
        t.result0.extractLsb' 27 4 = 0#4 ∧ t.result0.getLsbD 8 = false ∧
        Reports t 0x22#8 t.result0 t.result1 ∧ t = withReport t s)

/-- R461, R462, R464: the code of a symbol is the path from ROOT to its leaf, or the placeholder 0 when
ROOT is a leaf; every other symbol has none. With no tree GEN_CODES raises NO_TREE. -/
def Obligations.GenCodesGivesRootToLeafPaths : Prop :=
  ∀ s : State,
    (s.treeValid = false → exec .genCodes s = .next (raisedState .noTree 0#32 0x30#8 s)) ∧
    (s.treeValid = true → TreeLaw s →
      ∃ t, exec .genCodes s = .next t ∧ t.codesValid = true ∧
        (∀ sym f, s.nodeAt s.root = some (Node.leaf sym f) →
          ∀ u, t.codeAt u = if u = sym then [false] else []) ∧
        (∀ f l r, s.nodeAt s.root = some (Node.inner f l r) →
          ∀ sym p, (p ≠ [] ∧ t.codeAt sym = p) ↔
            ∃ g, follow s.arena s.root p = some (Node.leaf sym g)) ∧
        Reports t 0x30#8 (zext32 s.nleaves) t.result1 ∧
        (∀ sym, (t.codeAt sym).length ≤ t.result1.toNat) ∧
        (∃ sym, (t.codeAt sym).length = t.result1.toNat) ∧
        t = { withReport t s with code := t.code, codesValid := t.codesValid })

/-- R465: every leaf's symbol has a code of at least one bit, and no code is a prefix of another. -/
def Obligations.CodesArePrefixFree : Prop :=
  ∀ s t : State, s.treeValid = true → TreeLaw s → exec .genCodes s = .next t →
    (∀ sym f, Node.leaf sym f ∈ s.arena → 1 ≤ (t.codeAt sym).length) ∧
    ∀ a b, a ≠ b → t.codeAt a ≠ [] → t.codeAt b ≠ [] → ¬ (t.codeAt a <+: t.codeAt b)

/-- R463: in a tree with k >= 2 leaves every leaf's depth is between 1 and k - 1. -/
def Obligations.LeafDepthIsBounded : Prop :=
  ∀ (s : State) (p : List Bool) (sym : Byte) (f : Word),
    TreeLaw s → 2 ≤ s.nleaves.toNat → follow s.arena s.root p = some (Node.leaf sym f) →
    1 ≤ p.length ∧ p.length ≤ s.nleaves.toNat - 1 ∧ p.length ≤ 255

/-- R466: bit 31 - t of RESULT0 is bit 32j + t of the code, 0 beyond LEN. -/
def Obligations.CodeReadReadsOneSlice : Prop :=
  ∀ (s : State) (sym : Byte) (wrd : BitVec 3), ∃ t, exec (.codeRead sym wrd) s = .next t ∧
    (∀ k, k < 32 → t.result0.getLsbD (31 - k) = (s.codeAt sym).getD (32 * wrd.toNat + k) false) ∧
    Reports t 0x31#8 t.result0 (word (s.codeAt sym).length) ∧ t = withReport t s

/-! ### Encoder -/

/-- R481, R501: ENC_CLEAR empties OBUF and ENC_BITS; DEC_RESET puts the Decoder at ROOT and DEC_COUNT at 0. -/
def Obligations.EncClearAndDecResetRestart : Prop :=
  ∀ s : State,
    (∃ t, exec .encClear s = .next t ∧ Reports t 0x40#8 0#32 0#32 ∧
      t = { withReport t s with obuf := [], encBits := 0#32 }) ∧
    (∃ t, exec .decReset s = .next t ∧ Reports t 0x50#8 (zext32 s.root) 0#32 ∧
      t = { withReport t s with decNode := s.root, decCount := 0#32 })

/-- R482, R484, R485: UNKNOWN_SYMBOL without a code, then OBUF_FULL if the code does not fit, otherwise
the code is appended. -/
def Obligations.EncSymAppendsTheCode : Prop :=
  ∀ (s : State) (sym : Byte),
    (s.codeAt sym = [] →
      exec (.encSym sym) s = .next (raisedState .unknownSymbol (zext32 sym) 0x41#8 s)) ∧
    (s.codeAt sym ≠ [] → s.params.obufBits < s.obuf.length + (s.codeAt sym).length →
      exec (.encSym sym) s =
        .next (raisedState .obufFull (word (s.codeAt sym).length) 0x41#8 s)) ∧
    (s.codeAt sym ≠ [] → s.obuf.length + (s.codeAt sym).length ≤ s.params.obufBits →
      ∃ t, exec (.encSym sym) s = .next t ∧ t.obuf = s.obuf ++ s.codeAt sym ∧
        t.encBits = s.encBits + word (s.codeAt sym).length ∧
        Reports t 0x41#8 (word (s.codeAt sym).length) (word t.obuf.length) ∧
        t = { withReport t s with obuf := t.obuf, encBits := t.encBits })

/-- R486: the oldest bits, at most 32, leave OBUF and stand in RESULT0 from bit 31 down. -/
def Obligations.OutPopRemovesTheOldestBits : Prop :=
  ∀ s : State, ∃ t, exec .outPop s = .next t ∧
    (let n := min 32 s.obuf.length
     unpackBits t.result0 n ++ t.obuf = s.obuf ∧ t.obuf.length = s.obuf.length - n ∧
     (∀ b, b < 32 - n → t.result0.getLsbD b = false) ∧
     Reports t 0x42#8 t.result0 (word n)) ∧
    t = { withReport t s with obuf := t.obuf }

/-- R483: from an empty OBUF, the bits popped by OUT_POPs interleaved anywhere with ENC_SYMs, followed by
the bits still in OBUF, are the codes of the symbols in order, and ENC_BITS is their length. -/
def Obligations.EncodingConcatenatesTheCodes : Prop :=
  ∀ (s t : State) (is : List Instr) (out : List Bool),
    (∀ i ∈ is, i = .outPop ∨ ∃ sym, i = .encSym sym) → s.obuf = [] → s.encBits = 0#32 →
    encodeRun is s = some (out, t) →
    out ++ t.obuf = (encodedSymbols is).flatMap s.codeAt ∧
    t.encBits = word ((encodedSymbols is).flatMap s.codeAt).length

/-! ### Decoder -/

/-- R503, R502: in a tree whose root is internal, one bit moves to a child; a leaf emits its symbol and
returns to ROOT. -/
def Obligations.DecBitFollowsOneEdge : Prop :=
  ∀ (s : State) (bit : Bool) (f0 f : Word) (l0 r0 l r : NodeIdx),
    s.treeValid = true → s.nodeAt s.root = some (Node.inner f0 l0 r0) →
    s.nodeAt s.decNode = some (Node.inner f l r) →
    let c := if bit then r else l
    (∀ sym g, s.nodeAt c = some (Node.leaf sym g) →
      ∃ t, exec (.decBit bit) s = .next t ∧
        Reports t 0x51#8 (0x80000000#32 ||| zext32 sym) (zext32 s.root) ∧
        t = { withReport t s with decNode := s.root, decCount := s.decCount + 1#32 }) ∧
    (∀ g a b, s.nodeAt c = some (Node.inner g a b) →
      ∃ t, exec (.decBit bit) s = .next t ∧ Reports t 0x51#8 0#32 (zext32 c) ∧
        t = { withReport t s with decNode := c })

/-- R504: in a degenerate tree a 0 bit emits the root's symbol and a 1 bit raises TRUNCATED_STREAM, for
DEC_BIT and for DEC_WORD. -/
def Obligations.DegenerateTreeEmitsOnZeroOnly : Prop :=
  ∀ (s : State) (sym : Byte) (f : Word) (cnt : BitVec 6),
    s.treeValid = true → s.nodeAt s.root = some (Node.leaf sym f) → 1 ≤ cnt.toNat → cnt.toNat ≤ 32 →
    (∃ t, exec (.decBit false) s = .next t ∧
      Reports t 0x51#8 (0x80000000#32 ||| zext32 sym) (zext32 s.root) ∧
      t = { withReport t s with decNode := s.root, decCount := s.decCount + 1#32 }) ∧
    exec (.decBit true) s = .next (raisedState .truncatedStream 0x80000000#32 0x51#8 s) ∧
    (s.dataIn.getLsbD 31 = false →
      ∃ t, exec (.decWord cnt) s = .next t ∧
        Reports t 0x52#8 (0x80000000#32 ||| zext32 sym) 1#32 ∧
        t = { withReport t s with decNode := s.root, decCount := s.decCount + 1#32 }) ∧
    (s.dataIn.getLsbD 31 = true →
      exec (.decWord cnt) s = .next (raisedState .truncatedStream 0x80000000#32 0x52#8 s))

/-- R505, R506: DEC_WORD checks its range first; with no tree DEC_BIT and DEC_WORD raise NO_TREE. -/
def Obligations.DecoderChecksRangeThenTree : Prop :=
  ∀ (s : State) (bit : Bool) (cnt : BitVec 6),
    (cnt.toNat = 0 ∨ 32 < cnt.toNat →
      exec (.decWord cnt) s = .next (raisedState .argRange (zext32 cnt) 0x52#8 s)) ∧
    (s.treeValid = false →
      exec (.decBit bit) s = .next (raisedState .noTree 0#32 0x51#8 s) ∧
      (1 ≤ cnt.toNat → cnt.toNat ≤ 32 →
        exec (.decWord cnt) s = .next (raisedState .noTree 0#32 0x52#8 s)))

/-- R506: in range, with a lawful tree whose root is internal, DEC_WORD consumes 1 to CNT bits of DATA_IN
and ends at a symbol or with all of them. -/
def Obligations.DecWordCompletes : Prop :=
  ∀ (s : State) (cnt : BitVec 6) (f : Word) (l r : NodeIdx),
    1 ≤ cnt.toNat → cnt.toNat ≤ 32 → s.treeValid = true → TreeLaw s → DecoderLaw s →
    s.nodeAt s.root = some (Node.inner f l r) →
    ∃ t n, exec (.decWord cnt) s = .next t ∧ Reports t 0x52#8 t.result0 (word n) ∧
      1 ≤ n ∧ n ≤ cnt.toNat ∧
      (t.result0 = 0#32 ∧ n = cnt.toNat ∧ t.decCount = s.decCount ∨
        (∃ sym : Byte, t.result0 = 0x80000000#32 ||| zext32 sym) ∧ t.decNode = s.root ∧
          t.decCount = s.decCount + 1#32) ∧
      t = { withReport t s with decNode := t.decNode, decCount := t.decCount }

/-- R507: a successful DEC_WORD is the run of DEC_BITs on the bits of DATA_IN from bit 31 down, up to the
first that emits a symbol. -/
def Obligations.DecWordIsARunOfDecBits : Prop :=
  ∀ (s t : State) (cnt : BitVec 6), exec (.decWord cnt) s = .next t → t.lastErr = .ok →
    ∃ u n, feedUntilSymbol (unpackBits s.dataIn cnt.toNat) s = some (u, n) ∧
      t.decNode = u.decNode ∧ t.decCount = u.decCount ∧ t.result0 = u.result0 ∧ t.result1 = word n

/-- R508. -/
def Obligations.DecEndChecksTheCodeBoundary : Prop :=
  ∀ s : State,
    (s.decNode ≠ s.root →
      exec .decEnd s = .next (raisedState .truncatedStream (zext32 s.decNode) 0x53#8 s)) ∧
    (s.decNode = s.root →
      ∃ t, exec .decEnd s = .next t ∧ Reports t 0x53#8 s.decCount 0#32 ∧ t = withReport t s)

/-- R509: for every sequence of symbols, the bits that encode it under the code table made from its own
counts decode, on the built tree and on the tree that DES_RUN loads from its image, to that sequence,
and DEC_END then succeeds with its length. -/
def Obligations.DecodingWhatWasEncoded : Prop :=
  ∀ (s : State) (S : List Byte), S ≠ [] → S.length ≤ Config.freqMax →
    ∃ t, runCommands ((.freqClear :: S.map .freqCount) ++ [.build, .genCodes]) s = .next t ∧
      t.lastErr = .ok ∧
      ∀ pre : List Instr, pre = [.decReset] ∨ pre = [.serBuild, .desRun, .decReset] →
        ∃ u v w, runCommands pre t = .next u ∧
          feedBits (S.flatMap t.codeAt) u = some (S, v) ∧
          exec .decEnd v = .next w ∧ Reports w 0x53#8 (word S.length) 0#32

/-! ### Serializer and Deserializer -/

/-- R524, R525, R521 to R523: the image of the loaded tree, in pre-order, stands in SERBUF from word 0 on, or the
one word of the empty image with no tree; the words after it are unchanged. -/
def Obligations.SerBuildWritesTheImage : Prop :=
  ∀ s : State,
    (s.treeValid = true → TreeLaw s →
      ∃ t es, exec .serBuild s = .next t ∧
        es = (reach s.arena Config.maxNodes s.root).filterMap (fun i => s.arena[i]?) ∧
        es.length = s.nnodes.toNat ∧
        (∀ j w, (imageWords es)[j]? = some w → t.serbuf.lookup j = some w) ∧
        (∀ j, 2 * s.nnodes.toNat < j → t.serbuf.lookup j = s.serbuf.lookup j) ∧
        Reports t 0x60#8 (word (1 + 2 * s.nnodes.toNat)) (zext32 s.nnodes) ∧
        t = { withReport t s with serbuf := t.serbuf }) ∧
    (s.treeValid = false →
      ∃ t, exec .serBuild s = .next t ∧ t.serbuf.lookup 0 = some 0x48541000#32 ∧
        (∀ j, 0 < j → t.serbuf.lookup j = s.serbuf.lookup j) ∧
        Reports t 0x60#8 1#32 0#32 ∧ t = { withReport t s with serbuf := t.serbuf })

/-- R526: a written word is read as it was last written; index 1023 raises ARG_RANGE. (A word that nothing
has written reads as a free draw, which only has to exist; log 2.) -/
def Obligations.SerReadReadsOneWord : Prop :=
  ∀ (s : State) (idx : BitVec 10),
    (1022 < idx.toNat →
      exec (.serRead idx) s = .next (raisedState .argRange (zext32 idx) 0x61#8 s)) ∧
    (idx.toNat ≤ 1022 →
      ∃ t, exec (.serRead idx) s = .next t ∧
        (∀ w, s.serbuf.lookup idx.toNat = some w → t.result0 = w) ∧
        Reports t 0x61#8 t.result0 0#32 ∧ t = { withReport t s with draws := t.draws })

/-- R528: DATA_IN is stored at the index and nowhere else; index 1023 raises ARG_RANGE. -/
def Obligations.DesWriteStoresOneWord : Prop :=
  ∀ (s : State) (idx : BitVec 10),
    (1022 < idx.toNat →
      exec (.desWrite idx) s = .next (raisedState .argRange (zext32 idx) 0x62#8 s)) ∧
    (idx.toNat ≤ 1022 →
      ∃ t, exec (.desWrite idx) s = .next t ∧ t.serbuf.lookup idx.toNat = some s.dataIn ∧
        (∀ j, j ≠ idx.toNat → t.serbuf.lookup j = s.serbuf.lookup j) ∧
        Reports t 0x62#8 0#32 0#32 ∧ t = { withReport t s with serbuf := t.serbuf })

/-- R530, R533, R520: an image of a tree with exact sums and distinct symbols loads that tree, with ROOT = 0 and
the node with pre-order number p at arena index p. -/
def Obligations.DesRunLoadsTheImageOfATree : Prop :=
  ∀ (s : State) (h : HTree), h.sumsExact = true → h.symbols.Nodup →
    (∀ j w, (imageHeader h.size :: h.records)[j]? = some w → s.serbuf.lookup j = some w) →
    ∃ t, exec .desRun s = .next t ∧ t.tree = .ok h ∧ t.treeValid = true ∧ t.root = 0#9 ∧
      reach t.arena Config.maxNodes 0#9 = List.range h.size ∧
      t.nnodes.toNat = h.size ∧ t.nleaves.toNat = h.leaves ∧
      t.codesValid = false ∧ (∀ sym, t.codeAt sym = []) ∧ t.decNode = 0#9 ∧ t.decCount = 0#32 ∧
      Reports t 0x63#8 (word h.size) (word h.leaves) ∧
      t = { withReport t s with
            nodes := t.nodes, root := t.root, nnodes := t.nnodes, nleaves := t.nleaves,
            treeValid := t.treeValid, code := t.code, codesValid := t.codesValid,
            decNode := t.decNode, decCount := t.decCount, draws := t.draws }

/-- R530, R525, R143: the image of the empty tree unloads the tree, whatever SERBUF holds after it. -/
def Obligations.DesRunOfTheEmptyImageUnloads : Prop :=
  ∀ s : State, s.serbuf.lookup 0 = some 0x48541000#32 →
    ∃ t, exec .desRun s = .next t ∧ Reports t 0x63#8 0#32 0#32 ∧
      readReg .treeInfo t = 0x000001FF#32 ∧ readReg .decInfo t = 0x000003FF#32 ∧
      (∀ sym, t.codeAt sym = []) ∧ t.decCount = 0#32 ∧
      t = { withReport t s with
            root := t.root, nnodes := t.nnodes, nleaves := t.nleaves, treeValid := t.treeValid,
            code := t.code, codesValid := t.codesValid, decNode := t.decNode, decCount := t.decCount,
            draws := t.draws }

/-- R532: DES_RUN always completes, whatever SERBUF holds; what it loads obeys the tree law. -/
def Obligations.DesRunLoadsOnlyLawfulTrees : Prop :=
  ∀ s : State, ∃ t, exec .desRun s = .next t ∧
    (t.lastErr = .ok ∨ t.lastErr = .serializationFormat) ∧
    (t.lastErr = .ok → TreeRegistersLaw t ∧ t.decNode = t.root ∧
      (t.treeValid = true → t.root = 0#9) ∧ Reports t 0x63#8 (zext32 t.nnodes) (zext32 t.nleaves))

/-- R529, R531: which violation DES_RUN reports, and at which index, for every kind of violation at every
pre-order position of an image of any size. `h` is any tree whose first `p` records the image begins with,
those records being good by themselves; `n` is COUNT; the words from record `p` on are arbitrary. -/
def Obligations.DesRunReportsTheFirstViolation : Prop :=
  ∀ s : State, ∃ t, exec .desRun s = .next t ∧
    let fails := fun pos =>
      t = { raisedState .serializationFormat (word pos) 0x63#8 s with draws := t.draws }
    -- (1) a bad stream header
    (let w := s.serWord 0
     (w.extractLsb' 16 16 ≠ 0x4854#16 ∨ w.extractLsb' 12 4 ≠ 1#4 ∨ w.extractLsb' 10 2 ≠ 0#2 ∨
        511 < (w.extractLsb' 0 10).toNat) → fails 0) ∧
    ∀ (h : HTree) (p n : Nat),
      1 ≤ n → n ≤ 511 → s.serWord 0 = 0x48541000#32 ||| word n → p ≤ n → p ≤ h.size →
      (∀ j u, j < p → h.subtrees[j]? = some u →
        s.serWord (1 + 2 * j) = u.header ∧ s.serWord (2 + 2 * j) = u.freq) →
      h.leavesGoodBefore p →
      ((∀ j u, h.subtrees[j]? = some u → j + u.size ≤ p → u.sumExact = true) →
        -- (2) a record is needed beyond COUNT
        (p < h.size → p = n → fails (1 + 2 * p)) ∧
        (p < h.size → p < n →
          let hw := s.serWord (1 + 2 * p)
          let f := s.serWord (2 + 2 * p)
          -- (3) a bad node header
          (hw ≠ 0xA3000000#32 → (∀ sym : Byte, hw ≠ 0xA4000000#32 ||| zext32 sym) →
            fails (1 + 2 * p)) ∧
          (∀ sym : Byte, hw = 0xA4000000#32 ||| zext32 sym →
            -- (4) a leaf frequency of 0
            (f = 0#32 → fails (2 + 2 * p)) ∧
            -- (5) a repeated symbol
            (f ≠ 0#32 → sym ∈ h.symbolsBefore p → fails (1 + 2 * p)))) ∧
        -- (7) COUNT is larger than the tree
        (p = h.size → p < n → fails (1 + 2 * p))) ∧
      -- (6) record `p - 1` ends the subtree of record `j`, whose sum is the first that is not exact
      (∀ j u, h.subtrees[j]? = some u → j + u.size = p → u.sumExact = false →
        (∀ k v, h.subtrees[k]? = some v → k + v.size < p ∨ (k + v.size = p ∧ j < k) →
          v.sumExact = true) →
        fails (2 + 2 * j))

/-- R534: SER_BUILD then DES_RUN loads the same tree up to arena indices: a second SER_BUILD writes the same
words, GEN_CODES gives the same codes, and the Decoder emits the same symbols for every bit sequence. -/
def Obligations.SerializationRoundTrip : Prop :=
  ∀ s : State, s.treeValid = true → TreeLaw s →
    ∃ t u v c c' r r', exec .serBuild s = .next t ∧ exec .desRun t = .next u ∧ u.lastErr = .ok ∧
      u.tree = s.tree ∧
      exec .serBuild u = .next v ∧ v.serbuf = t.serbuf ∧
      exec .genCodes s = .next c ∧ exec .genCodes u = .next c' ∧ c'.code = c.code ∧
      exec .decReset s = .next r ∧ exec .decReset u = .next r' ∧
      ∀ bits, (feedBits bits r').map Prod.fst = (feedBits bits r).map Prod.fst

/-- R535: SER_BUILD of a tree that DES_RUN has loaded rewrites the words of its image unchanged (a word
that nothing had written, with the value DES_RUN drew for it; log 2). -/
def Obligations.ImageRoundTrip : Prop :=
  ∀ s t : State, exec .desRun s = .next t → t.lastErr = .ok →
    ∃ u, exec .serBuild t = .next u ∧
      ∀ j, j ≤ 2 * t.nnodes.toNat → u.serbuf.lookup j = some (s.serWord j)

/-! ### Invariants -/

/-- The invariant holds at reset. -/
def Obligations.InvariantHoldsAtReset : Prop := Inv State.reset

/-- R420: TOTAL stays the exact sum of FREQ. -/
def Obligations.EveryStepKeepsTheFrequencyLaw : Prop :=
  ∀ s t : State, FreqLaw s → step s = .next t → FreqLaw t

/-- R143, R144, R150: the loaded tree obeys the tree law and the Decoder stands at its root or at an
internal node. -/
def Obligations.EveryStepKeepsTheTreeLaw : Prop :=
  ∀ s t : State, FreqLaw s → TreeRegistersLaw s → DecoderLaw s → step s = .next t →
    TreeRegistersLaw t ∧ DecoderLaw t

/-- The whole invariant, from every state that meets it: the laws R141 to R161 and BUSY = 0. -/
def Obligations.EveryStepKeepsTheInvariant : Prop := ∀ s t : State, Inv s → step s = .next t → Inv t

/-- R606, R607, R714: in a state that meets the invariant every command completes, and a step stops only at an
access outside the window. -/
def Obligations.NothingStopsUnderTheInvariant : Prop :=
  ∀ s : State, Inv s →
    (∀ i : Instr, ∃ t, exec i s = .next t) ∧
    ((∃ t, step s = .next t) ∨ step s = .refused .accessOutsideWindow)
end

