-- ==== Sys2Proof/Laws/State.lean ====
section
/-! SUPPORT. One lemma per field of State and per named update of Machine/Ops.lean, each true by rfl, so that
no later proof unfolds a record update. -/

namespace Sys2Proof
namespace Machine

/-! ### complete -/

@[simp] theorem complete_params (opc : Byte) (r0 r1 : Word) (s : State) :
    (complete opc r0 r1 s).params = s.params := rfl
@[simp] theorem complete_dataIn (opc : Byte) (r0 r1 : Word) (s : State) :
    (complete opc r0 r1 s).dataIn = s.dataIn := rfl
@[simp] theorem complete_busy (opc : Byte) (r0 r1 : Word) (s : State) :
    (complete opc r0 r1 s).busy = false := rfl
@[simp] theorem complete_errSticky (opc : Byte) (r0 r1 : Word) (s : State) :
    (complete opc r0 r1 s).errSticky = s.errSticky := rfl
@[simp] theorem complete_lastErr (opc : Byte) (r0 r1 : Word) (s : State) :
    (complete opc r0 r1 s).lastErr = .ok := rfl
@[simp] theorem complete_lastOpc (opc : Byte) (r0 r1 : Word) (s : State) :
    (complete opc r0 r1 s).lastOpc = opc := rfl
@[simp] theorem complete_result0 (opc : Byte) (r0 r1 : Word) (s : State) :
    (complete opc r0 r1 s).result0 = r0 := rfl
@[simp] theorem complete_result1 (opc : Byte) (r0 r1 : Word) (s : State) :
    (complete opc r0 r1 s).result1 = r1 := rfl
@[simp] theorem complete_freq (opc : Byte) (r0 r1 : Word) (s : State) :
    (complete opc r0 r1 s).freq = s.freq := rfl
@[simp] theorem complete_total (opc : Byte) (r0 r1 : Word) (s : State) :
    (complete opc r0 r1 s).total = s.total := rfl
@[simp] theorem complete_nodes (opc : Byte) (r0 r1 : Word) (s : State) :
    (complete opc r0 r1 s).nodes = s.nodes := rfl
@[simp] theorem complete_root (opc : Byte) (r0 r1 : Word) (s : State) :
    (complete opc r0 r1 s).root = s.root := rfl
@[simp] theorem complete_nnodes (opc : Byte) (r0 r1 : Word) (s : State) :
    (complete opc r0 r1 s).nnodes = s.nnodes := rfl
@[simp] theorem complete_nleaves (opc : Byte) (r0 r1 : Word) (s : State) :
    (complete opc r0 r1 s).nleaves = s.nleaves := rfl
@[simp] theorem complete_treeValid (opc : Byte) (r0 r1 : Word) (s : State) :
    (complete opc r0 r1 s).treeValid = s.treeValid := rfl
@[simp] theorem complete_codesValid (opc : Byte) (r0 r1 : Word) (s : State) :
    (complete opc r0 r1 s).codesValid = s.codesValid := rfl
@[simp] theorem complete_code (opc : Byte) (r0 r1 : Word) (s : State) :
    (complete opc r0 r1 s).code = s.code := rfl
@[simp] theorem complete_decNode (opc : Byte) (r0 r1 : Word) (s : State) :
    (complete opc r0 r1 s).decNode = s.decNode := rfl
@[simp] theorem complete_decCount (opc : Byte) (r0 r1 : Word) (s : State) :
    (complete opc r0 r1 s).decCount = s.decCount := rfl
@[simp] theorem complete_obuf (opc : Byte) (r0 r1 : Word) (s : State) :
    (complete opc r0 r1 s).obuf = s.obuf := rfl
@[simp] theorem complete_encBits (opc : Byte) (r0 r1 : Word) (s : State) :
    (complete opc r0 r1 s).encBits = s.encBits := rfl
@[simp] theorem complete_serbuf (opc : Byte) (r0 r1 : Word) (s : State) :
    (complete opc r0 r1 s).serbuf = s.serbuf := rfl
@[simp] theorem complete_draws (opc : Byte) (r0 r1 : Word) (s : State) :
    (complete opc r0 r1 s).draws = s.draws := rfl
@[simp] theorem complete_bus (opc : Byte) (r0 r1 : Word) (s : State) :
    (complete opc r0 r1 s).bus = s.bus := rfl
@[simp] theorem complete_readData (opc : Byte) (r0 r1 : Word) (s : State) :
    (complete opc r0 r1 s).readData = s.readData := rfl

/-! ### raise -/

@[simp] theorem raise_params (e : ErrCode) (info : Word) (opc : Byte) (s : State) :
    (raise e info opc s).params = s.params := rfl
@[simp] theorem raise_dataIn (e : ErrCode) (info : Word) (opc : Byte) (s : State) :
    (raise e info opc s).dataIn = s.dataIn := rfl
@[simp] theorem raise_busy (e : ErrCode) (info : Word) (opc : Byte) (s : State) :
    (raise e info opc s).busy = false := rfl
@[simp] theorem raise_errSticky (e : ErrCode) (info : Word) (opc : Byte) (s : State) :
    (raise e info opc s).errSticky = true := rfl
@[simp] theorem raise_lastErr (e : ErrCode) (info : Word) (opc : Byte) (s : State) :
    (raise e info opc s).lastErr = e := rfl
@[simp] theorem raise_lastOpc (e : ErrCode) (info : Word) (opc : Byte) (s : State) :
    (raise e info opc s).lastOpc = opc := rfl
@[simp] theorem raise_result0 (e : ErrCode) (info : Word) (opc : Byte) (s : State) :
    (raise e info opc s).result0 = info := rfl
@[simp] theorem raise_result1 (e : ErrCode) (info : Word) (opc : Byte) (s : State) :
    (raise e info opc s).result1 = 0#32 := rfl
@[simp] theorem raise_freq (e : ErrCode) (info : Word) (opc : Byte) (s : State) :
    (raise e info opc s).freq = s.freq := rfl
@[simp] theorem raise_total (e : ErrCode) (info : Word) (opc : Byte) (s : State) :
    (raise e info opc s).total = s.total := rfl
@[simp] theorem raise_nodes (e : ErrCode) (info : Word) (opc : Byte) (s : State) :
    (raise e info opc s).nodes = s.nodes := rfl
@[simp] theorem raise_root (e : ErrCode) (info : Word) (opc : Byte) (s : State) :
    (raise e info opc s).root = s.root := rfl
@[simp] theorem raise_nnodes (e : ErrCode) (info : Word) (opc : Byte) (s : State) :
    (raise e info opc s).nnodes = s.nnodes := rfl
@[simp] theorem raise_nleaves (e : ErrCode) (info : Word) (opc : Byte) (s : State) :
    (raise e info opc s).nleaves = s.nleaves := rfl
@[simp] theorem raise_treeValid (e : ErrCode) (info : Word) (opc : Byte) (s : State) :
    (raise e info opc s).treeValid = s.treeValid := rfl
@[simp] theorem raise_codesValid (e : ErrCode) (info : Word) (opc : Byte) (s : State) :
    (raise e info opc s).codesValid = s.codesValid := rfl
@[simp] theorem raise_code (e : ErrCode) (info : Word) (opc : Byte) (s : State) :
    (raise e info opc s).code = s.code := rfl
@[simp] theorem raise_decNode (e : ErrCode) (info : Word) (opc : Byte) (s : State) :
    (raise e info opc s).decNode = s.decNode := rfl
@[simp] theorem raise_decCount (e : ErrCode) (info : Word) (opc : Byte) (s : State) :
    (raise e info opc s).decCount = s.decCount := rfl
@[simp] theorem raise_obuf (e : ErrCode) (info : Word) (opc : Byte) (s : State) :
    (raise e info opc s).obuf = s.obuf := rfl
@[simp] theorem raise_encBits (e : ErrCode) (info : Word) (opc : Byte) (s : State) :
    (raise e info opc s).encBits = s.encBits := rfl
@[simp] theorem raise_serbuf (e : ErrCode) (info : Word) (opc : Byte) (s : State) :
    (raise e info opc s).serbuf = s.serbuf := rfl
@[simp] theorem raise_draws (e : ErrCode) (info : Word) (opc : Byte) (s : State) :
    (raise e info opc s).draws = s.draws := rfl
@[simp] theorem raise_bus (e : ErrCode) (info : Word) (opc : Byte) (s : State) :
    (raise e info opc s).bus = s.bus := rfl
@[simp] theorem raise_readData (e : ErrCode) (info : Word) (opc : Byte) (s : State) :
    (raise e info opc s).readData = s.readData := rfl

/-! ### setFreq -/

@[simp] theorem setFreq_params (s : State) (sym : Byte) (v : Word) :
    (s.setFreq sym v).params = s.params := rfl
@[simp] theorem setFreq_dataIn (s : State) (sym : Byte) (v : Word) :
    (s.setFreq sym v).dataIn = s.dataIn := rfl
@[simp] theorem setFreq_busy (s : State) (sym : Byte) (v : Word) :
    (s.setFreq sym v).busy = s.busy := rfl
@[simp] theorem setFreq_errSticky (s : State) (sym : Byte) (v : Word) :
    (s.setFreq sym v).errSticky = s.errSticky := rfl
@[simp] theorem setFreq_lastErr (s : State) (sym : Byte) (v : Word) :
    (s.setFreq sym v).lastErr = s.lastErr := rfl
@[simp] theorem setFreq_lastOpc (s : State) (sym : Byte) (v : Word) :
    (s.setFreq sym v).lastOpc = s.lastOpc := rfl
@[simp] theorem setFreq_result0 (s : State) (sym : Byte) (v : Word) :
    (s.setFreq sym v).result0 = s.result0 := rfl
@[simp] theorem setFreq_result1 (s : State) (sym : Byte) (v : Word) :
    (s.setFreq sym v).result1 = s.result1 := rfl
@[simp] theorem setFreq_freq (s : State) (sym : Byte) (v : Word) :
    (s.setFreq sym v).freq = s.freq.set sym.toNat v sym.isLt := rfl
@[simp] theorem setFreq_total (s : State) (sym : Byte) (v : Word) :
    (s.setFreq sym v).total = s.total := rfl
@[simp] theorem setFreq_nodes (s : State) (sym : Byte) (v : Word) :
    (s.setFreq sym v).nodes = s.nodes := rfl
@[simp] theorem setFreq_root (s : State) (sym : Byte) (v : Word) :
    (s.setFreq sym v).root = s.root := rfl
@[simp] theorem setFreq_nnodes (s : State) (sym : Byte) (v : Word) :
    (s.setFreq sym v).nnodes = s.nnodes := rfl
@[simp] theorem setFreq_nleaves (s : State) (sym : Byte) (v : Word) :
    (s.setFreq sym v).nleaves = s.nleaves := rfl
@[simp] theorem setFreq_treeValid (s : State) (sym : Byte) (v : Word) :
    (s.setFreq sym v).treeValid = s.treeValid := rfl
@[simp] theorem setFreq_codesValid (s : State) (sym : Byte) (v : Word) :
    (s.setFreq sym v).codesValid = s.codesValid := rfl
@[simp] theorem setFreq_code (s : State) (sym : Byte) (v : Word) :
    (s.setFreq sym v).code = s.code := rfl
@[simp] theorem setFreq_decNode (s : State) (sym : Byte) (v : Word) :
    (s.setFreq sym v).decNode = s.decNode := rfl
@[simp] theorem setFreq_decCount (s : State) (sym : Byte) (v : Word) :
    (s.setFreq sym v).decCount = s.decCount := rfl
@[simp] theorem setFreq_obuf (s : State) (sym : Byte) (v : Word) :
    (s.setFreq sym v).obuf = s.obuf := rfl
@[simp] theorem setFreq_encBits (s : State) (sym : Byte) (v : Word) :
    (s.setFreq sym v).encBits = s.encBits := rfl
@[simp] theorem setFreq_serbuf (s : State) (sym : Byte) (v : Word) :
    (s.setFreq sym v).serbuf = s.serbuf := rfl
@[simp] theorem setFreq_draws (s : State) (sym : Byte) (v : Word) :
    (s.setFreq sym v).draws = s.draws := rfl
@[simp] theorem setFreq_bus (s : State) (sym : Byte) (v : Word) :
    (s.setFreq sym v).bus = s.bus := rfl
@[simp] theorem setFreq_readData (s : State) (sym : Byte) (v : Word) :
    (s.setFreq sym v).readData = s.readData := rfl

/-! ### clearCodes -/

@[simp] theorem clearCodes_params (s : State) :
    (clearCodes s).params = s.params := rfl
@[simp] theorem clearCodes_dataIn (s : State) :
    (clearCodes s).dataIn = s.dataIn := rfl
@[simp] theorem clearCodes_busy (s : State) :
    (clearCodes s).busy = s.busy := rfl
@[simp] theorem clearCodes_errSticky (s : State) :
    (clearCodes s).errSticky = s.errSticky := rfl
@[simp] theorem clearCodes_lastErr (s : State) :
    (clearCodes s).lastErr = s.lastErr := rfl
@[simp] theorem clearCodes_lastOpc (s : State) :
    (clearCodes s).lastOpc = s.lastOpc := rfl
@[simp] theorem clearCodes_result0 (s : State) :
    (clearCodes s).result0 = s.result0 := rfl
@[simp] theorem clearCodes_result1 (s : State) :
    (clearCodes s).result1 = s.result1 := rfl
@[simp] theorem clearCodes_freq (s : State) :
    (clearCodes s).freq = s.freq := rfl
@[simp] theorem clearCodes_total (s : State) :
    (clearCodes s).total = s.total := rfl
@[simp] theorem clearCodes_nodes (s : State) :
    (clearCodes s).nodes = s.nodes := rfl
@[simp] theorem clearCodes_root (s : State) :
    (clearCodes s).root = s.root := rfl
@[simp] theorem clearCodes_nnodes (s : State) :
    (clearCodes s).nnodes = s.nnodes := rfl
@[simp] theorem clearCodes_nleaves (s : State) :
    (clearCodes s).nleaves = s.nleaves := rfl
@[simp] theorem clearCodes_treeValid (s : State) :
    (clearCodes s).treeValid = s.treeValid := rfl
@[simp] theorem clearCodes_codesValid (s : State) :
    (clearCodes s).codesValid = false := rfl
@[simp] theorem clearCodes_code (s : State) :
    (clearCodes s).code = Vector.replicate 256 [] := rfl
@[simp] theorem clearCodes_decNode (s : State) :
    (clearCodes s).decNode = s.decNode := rfl
@[simp] theorem clearCodes_decCount (s : State) :
    (clearCodes s).decCount = s.decCount := rfl
@[simp] theorem clearCodes_obuf (s : State) :
    (clearCodes s).obuf = s.obuf := rfl
@[simp] theorem clearCodes_encBits (s : State) :
    (clearCodes s).encBits = s.encBits := rfl
@[simp] theorem clearCodes_serbuf (s : State) :
    (clearCodes s).serbuf = s.serbuf := rfl
@[simp] theorem clearCodes_draws (s : State) :
    (clearCodes s).draws = s.draws := rfl
@[simp] theorem clearCodes_bus (s : State) :
    (clearCodes s).bus = s.bus := rfl
@[simp] theorem clearCodes_readData (s : State) :
    (clearCodes s).readData = s.readData := rfl

/-! ### drawn -/

@[simp] theorem drawn_params (s : State) :
    s.drawn.params = s.params := rfl
@[simp] theorem drawn_dataIn (s : State) :
    s.drawn.dataIn = s.dataIn := rfl
@[simp] theorem drawn_busy (s : State) :
    s.drawn.busy = s.busy := rfl
@[simp] theorem drawn_errSticky (s : State) :
    s.drawn.errSticky = s.errSticky := rfl
@[simp] theorem drawn_lastErr (s : State) :
    s.drawn.lastErr = s.lastErr := rfl
@[simp] theorem drawn_lastOpc (s : State) :
    s.drawn.lastOpc = s.lastOpc := rfl
@[simp] theorem drawn_result0 (s : State) :
    s.drawn.result0 = s.result0 := rfl
@[simp] theorem drawn_result1 (s : State) :
    s.drawn.result1 = s.result1 := rfl
@[simp] theorem drawn_freq (s : State) :
    s.drawn.freq = s.freq := rfl
@[simp] theorem drawn_total (s : State) :
    s.drawn.total = s.total := rfl
@[simp] theorem drawn_nodes (s : State) :
    s.drawn.nodes = s.nodes := rfl
@[simp] theorem drawn_root (s : State) :
    s.drawn.root = s.root := rfl
@[simp] theorem drawn_nnodes (s : State) :
    s.drawn.nnodes = s.nnodes := rfl
@[simp] theorem drawn_nleaves (s : State) :
    s.drawn.nleaves = s.nleaves := rfl
@[simp] theorem drawn_treeValid (s : State) :
    s.drawn.treeValid = s.treeValid := rfl
@[simp] theorem drawn_codesValid (s : State) :
    s.drawn.codesValid = s.codesValid := rfl
@[simp] theorem drawn_code (s : State) :
    s.drawn.code = s.code := rfl
@[simp] theorem drawn_decNode (s : State) :
    s.drawn.decNode = s.decNode := rfl
@[simp] theorem drawn_decCount (s : State) :
    s.drawn.decCount = s.decCount := rfl
@[simp] theorem drawn_obuf (s : State) :
    s.drawn.obuf = s.obuf := rfl
@[simp] theorem drawn_encBits (s : State) :
    s.drawn.encBits = s.encBits := rfl
@[simp] theorem drawn_serbuf (s : State) :
    s.drawn.serbuf = s.serbuf := rfl
@[simp] theorem drawn_draws (s : State) :
    s.drawn.draws = s.draws + 1 := rfl
@[simp] theorem drawn_bus (s : State) :
    s.drawn.bus = s.bus := rfl
@[simp] theorem drawn_readData (s : State) :
    s.drawn.readData = s.readData := rfl

/-! ### loadTree -/

@[simp] theorem loadTree_params (arena : List Node) (i : NodeIdx) (k : Nat) (s : State) :
    (loadTree arena i k s).params = s.params := rfl
@[simp] theorem loadTree_dataIn (arena : List Node) (i : NodeIdx) (k : Nat) (s : State) :
    (loadTree arena i k s).dataIn = s.dataIn := rfl
@[simp] theorem loadTree_busy (arena : List Node) (i : NodeIdx) (k : Nat) (s : State) :
    (loadTree arena i k s).busy = s.busy := rfl
@[simp] theorem loadTree_errSticky (arena : List Node) (i : NodeIdx) (k : Nat) (s : State) :
    (loadTree arena i k s).errSticky = s.errSticky := rfl
@[simp] theorem loadTree_lastErr (arena : List Node) (i : NodeIdx) (k : Nat) (s : State) :
    (loadTree arena i k s).lastErr = s.lastErr := rfl
@[simp] theorem loadTree_lastOpc (arena : List Node) (i : NodeIdx) (k : Nat) (s : State) :
    (loadTree arena i k s).lastOpc = s.lastOpc := rfl
@[simp] theorem loadTree_result0 (arena : List Node) (i : NodeIdx) (k : Nat) (s : State) :
    (loadTree arena i k s).result0 = s.result0 := rfl
@[simp] theorem loadTree_result1 (arena : List Node) (i : NodeIdx) (k : Nat) (s : State) :
    (loadTree arena i k s).result1 = s.result1 := rfl
@[simp] theorem loadTree_freq (arena : List Node) (i : NodeIdx) (k : Nat) (s : State) :
    (loadTree arena i k s).freq = s.freq := rfl
@[simp] theorem loadTree_total (arena : List Node) (i : NodeIdx) (k : Nat) (s : State) :
    (loadTree arena i k s).total = s.total := rfl
@[simp] theorem loadTree_nodes (arena : List Node) (i : NodeIdx) (k : Nat) (s : State) :
    (loadTree arena i k s).nodes = arena ++ s.nodes.drop arena.length := rfl
@[simp] theorem loadTree_root (arena : List Node) (i : NodeIdx) (k : Nat) (s : State) :
    (loadTree arena i k s).root = i := rfl
@[simp] theorem loadTree_nnodes (arena : List Node) (i : NodeIdx) (k : Nat) (s : State) :
    (loadTree arena i k s).nnodes = BitVec.ofNat 9 arena.length := rfl
@[simp] theorem loadTree_nleaves (arena : List Node) (i : NodeIdx) (k : Nat) (s : State) :
    (loadTree arena i k s).nleaves = BitVec.ofNat 9 k := rfl
@[simp] theorem loadTree_treeValid (arena : List Node) (i : NodeIdx) (k : Nat) (s : State) :
    (loadTree arena i k s).treeValid = true := rfl
@[simp] theorem loadTree_codesValid (arena : List Node) (i : NodeIdx) (k : Nat) (s : State) :
    (loadTree arena i k s).codesValid = false := rfl
@[simp] theorem loadTree_code (arena : List Node) (i : NodeIdx) (k : Nat) (s : State) :
    (loadTree arena i k s).code = Vector.replicate 256 [] := rfl
@[simp] theorem loadTree_decNode (arena : List Node) (i : NodeIdx) (k : Nat) (s : State) :
    (loadTree arena i k s).decNode = i := rfl
@[simp] theorem loadTree_decCount (arena : List Node) (i : NodeIdx) (k : Nat) (s : State) :
    (loadTree arena i k s).decCount = 0#32 := rfl
@[simp] theorem loadTree_obuf (arena : List Node) (i : NodeIdx) (k : Nat) (s : State) :
    (loadTree arena i k s).obuf = s.obuf := rfl
@[simp] theorem loadTree_encBits (arena : List Node) (i : NodeIdx) (k : Nat) (s : State) :
    (loadTree arena i k s).encBits = s.encBits := rfl
@[simp] theorem loadTree_serbuf (arena : List Node) (i : NodeIdx) (k : Nat) (s : State) :
    (loadTree arena i k s).serbuf = s.serbuf := rfl
@[simp] theorem loadTree_draws (arena : List Node) (i : NodeIdx) (k : Nat) (s : State) :
    (loadTree arena i k s).draws = s.draws := rfl
@[simp] theorem loadTree_bus (arena : List Node) (i : NodeIdx) (k : Nat) (s : State) :
    (loadTree arena i k s).bus = s.bus := rfl
@[simp] theorem loadTree_readData (arena : List Node) (i : NodeIdx) (k : Nat) (s : State) :
    (loadTree arena i k s).readData = s.readData := rfl

/-! ### unloadTree -/

@[simp] theorem unloadTree_params (s : State) :
    (unloadTree s).params = s.params := rfl
@[simp] theorem unloadTree_dataIn (s : State) :
    (unloadTree s).dataIn = s.dataIn := rfl
@[simp] theorem unloadTree_busy (s : State) :
    (unloadTree s).busy = s.busy := rfl
@[simp] theorem unloadTree_errSticky (s : State) :
    (unloadTree s).errSticky = s.errSticky := rfl
@[simp] theorem unloadTree_lastErr (s : State) :
    (unloadTree s).lastErr = s.lastErr := rfl
@[simp] theorem unloadTree_lastOpc (s : State) :
    (unloadTree s).lastOpc = s.lastOpc := rfl
@[simp] theorem unloadTree_result0 (s : State) :
    (unloadTree s).result0 = s.result0 := rfl
@[simp] theorem unloadTree_result1 (s : State) :
    (unloadTree s).result1 = s.result1 := rfl
@[simp] theorem unloadTree_freq (s : State) :
    (unloadTree s).freq = s.freq := rfl
@[simp] theorem unloadTree_total (s : State) :
    (unloadTree s).total = s.total := rfl
@[simp] theorem unloadTree_nodes (s : State) :
    (unloadTree s).nodes = s.nodes := rfl
@[simp] theorem unloadTree_root (s : State) :
    (unloadTree s).root = Config.nil := rfl
@[simp] theorem unloadTree_nnodes (s : State) :
    (unloadTree s).nnodes = 0#9 := rfl
@[simp] theorem unloadTree_nleaves (s : State) :
    (unloadTree s).nleaves = 0#9 := rfl
@[simp] theorem unloadTree_treeValid (s : State) :
    (unloadTree s).treeValid = false := rfl
@[simp] theorem unloadTree_codesValid (s : State) :
    (unloadTree s).codesValid = false := rfl
@[simp] theorem unloadTree_code (s : State) :
    (unloadTree s).code = Vector.replicate 256 [] := rfl
@[simp] theorem unloadTree_decNode (s : State) :
    (unloadTree s).decNode = Config.nil := rfl
@[simp] theorem unloadTree_decCount (s : State) :
    (unloadTree s).decCount = 0#32 := rfl
@[simp] theorem unloadTree_obuf (s : State) :
    (unloadTree s).obuf = s.obuf := rfl
@[simp] theorem unloadTree_encBits (s : State) :
    (unloadTree s).encBits = s.encBits := rfl
@[simp] theorem unloadTree_serbuf (s : State) :
    (unloadTree s).serbuf = s.serbuf := rfl
@[simp] theorem unloadTree_draws (s : State) :
    (unloadTree s).draws = s.draws := rfl
@[simp] theorem unloadTree_bus (s : State) :
    (unloadTree s).bus = s.bus := rfl
@[simp] theorem unloadTree_readData (s : State) :
    (unloadTree s).readData = s.readData := rfl

/-! ### resetRegisters -/

@[simp] theorem resetRegisters_params (s : State) :
    (resetRegisters s).params = s.params := rfl
@[simp] theorem resetRegisters_dataIn (s : State) :
    (resetRegisters s).dataIn = 0#32 := rfl
@[simp] theorem resetRegisters_busy (s : State) :
    (resetRegisters s).busy = false := rfl
@[simp] theorem resetRegisters_errSticky (s : State) :
    (resetRegisters s).errSticky = false := rfl
@[simp] theorem resetRegisters_lastErr (s : State) :
    (resetRegisters s).lastErr = .ok := rfl
@[simp] theorem resetRegisters_lastOpc (s : State) :
    (resetRegisters s).lastOpc = 0x00#8 := rfl
@[simp] theorem resetRegisters_result0 (s : State) :
    (resetRegisters s).result0 = 0#32 := rfl
@[simp] theorem resetRegisters_result1 (s : State) :
    (resetRegisters s).result1 = 0#32 := rfl
@[simp] theorem resetRegisters_freq (s : State) :
    (resetRegisters s).freq = Vector.replicate 256 0#32 := rfl
@[simp] theorem resetRegisters_total (s : State) :
    (resetRegisters s).total = 0#32 := rfl
@[simp] theorem resetRegisters_nodes (s : State) :
    (resetRegisters s).nodes = s.nodes := rfl
@[simp] theorem resetRegisters_root (s : State) :
    (resetRegisters s).root = Config.nil := rfl
@[simp] theorem resetRegisters_nnodes (s : State) :
    (resetRegisters s).nnodes = 0#9 := rfl
@[simp] theorem resetRegisters_nleaves (s : State) :
    (resetRegisters s).nleaves = 0#9 := rfl
@[simp] theorem resetRegisters_treeValid (s : State) :
    (resetRegisters s).treeValid = false := rfl
@[simp] theorem resetRegisters_codesValid (s : State) :
    (resetRegisters s).codesValid = false := rfl
@[simp] theorem resetRegisters_code (s : State) :
    (resetRegisters s).code = Vector.replicate 256 [] := rfl
@[simp] theorem resetRegisters_decNode (s : State) :
    (resetRegisters s).decNode = Config.nil := rfl
@[simp] theorem resetRegisters_decCount (s : State) :
    (resetRegisters s).decCount = 0#32 := rfl
@[simp] theorem resetRegisters_obuf (s : State) :
    (resetRegisters s).obuf = [] := rfl
@[simp] theorem resetRegisters_encBits (s : State) :
    (resetRegisters s).encBits = 0#32 := rfl
@[simp] theorem resetRegisters_serbuf (s : State) :
    (resetRegisters s).serbuf = s.serbuf := rfl
@[simp] theorem resetRegisters_draws (s : State) :
    (resetRegisters s).draws = s.draws := rfl
@[simp] theorem resetRegisters_bus (s : State) :
    (resetRegisters s).bus = s.bus := rfl
@[simp] theorem resetRegisters_readData (s : State) :
    (resetRegisters s).readData = s.readData := rfl

/-! ### hardReset -/

@[simp] theorem hardReset_params (s : State) :
    (hardReset s).params = s.params := rfl
@[simp] theorem hardReset_dataIn (s : State) :
    (hardReset s).dataIn = 0#32 := rfl
@[simp] theorem hardReset_busy (s : State) :
    (hardReset s).busy = false := rfl
@[simp] theorem hardReset_errSticky (s : State) :
    (hardReset s).errSticky = false := rfl
@[simp] theorem hardReset_lastErr (s : State) :
    (hardReset s).lastErr = .ok := rfl
@[simp] theorem hardReset_lastOpc (s : State) :
    (hardReset s).lastOpc = 0x00#8 := rfl
@[simp] theorem hardReset_result0 (s : State) :
    (hardReset s).result0 = 0#32 := rfl
@[simp] theorem hardReset_result1 (s : State) :
    (hardReset s).result1 = 0#32 := rfl
@[simp] theorem hardReset_freq (s : State) :
    (hardReset s).freq = Vector.replicate 256 0#32 := rfl
@[simp] theorem hardReset_total (s : State) :
    (hardReset s).total = 0#32 := rfl
@[simp] theorem hardReset_nodes (s : State) :
    (hardReset s).nodes = [] := rfl
@[simp] theorem hardReset_root (s : State) :
    (hardReset s).root = Config.nil := rfl
@[simp] theorem hardReset_nnodes (s : State) :
    (hardReset s).nnodes = 0#9 := rfl
@[simp] theorem hardReset_nleaves (s : State) :
    (hardReset s).nleaves = 0#9 := rfl
@[simp] theorem hardReset_treeValid (s : State) :
    (hardReset s).treeValid = false := rfl
@[simp] theorem hardReset_codesValid (s : State) :
    (hardReset s).codesValid = false := rfl
@[simp] theorem hardReset_code (s : State) :
    (hardReset s).code = Vector.replicate 256 [] := rfl
@[simp] theorem hardReset_decNode (s : State) :
    (hardReset s).decNode = Config.nil := rfl
@[simp] theorem hardReset_decCount (s : State) :
    (hardReset s).decCount = 0#32 := rfl
@[simp] theorem hardReset_obuf (s : State) :
    (hardReset s).obuf = [] := rfl
@[simp] theorem hardReset_encBits (s : State) :
    (hardReset s).encBits = 0#32 := rfl
@[simp] theorem hardReset_serbuf (s : State) :
    (hardReset s).serbuf = [] := rfl
@[simp] theorem hardReset_draws (s : State) :
    (hardReset s).draws = s.draws := rfl
@[simp] theorem hardReset_bus (s : State) :
    (hardReset s).bus = s.bus := rfl
@[simp] theorem hardReset_readData (s : State) :
    (hardReset s).readData = s.readData := rfl

end Machine
end Sys2Proof
end

