-- ==== Sys2Proof/Laws/Ops.lean ====
section
/-! SUPPORT. For each shared operation of Machine/, what it does, said once, for proofs to cite instead of
unfolding it. -/

namespace Sys2Proof
namespace Machine

/-! ### How a command ends -/

theorem raise_eq_raisedState (e : ErrCode) (info : Word) (opc : Byte) (s : State) :
    raise e info opc s = raisedState e info opc s := rfl

theorem complete_reports (opc : Byte) (r0 r1 : Word) (s : State) :
    Reports (complete opc r0 r1 s) opc r0 r1 := ⟨rfl, rfl, rfl, rfl, rfl⟩

/-- A completed command has changed nothing but its report. -/
theorem complete_eq_withReport (opc : Byte) (r0 r1 : Word) (s : State) :
    complete opc r0 r1 s = withReport (complete opc r0 r1 s) s := rfl

/-! ### FREQ and CODE -/

@[simp] theorem freqAt_setFreq_same (s : State) (sym : Byte) (v : Word) :
    (s.setFreq sym v).freqAt sym = v := by
  simp [State.freqAt]

theorem freqAt_setFreq_other (s : State) {sym u : Byte} (v : Word) (h : u ≠ sym) :
    (s.setFreq sym v).freqAt u = s.freqAt u := by
  have : sym.toNat ≠ u.toNat := fun e => h (BitVec.eq_of_toNat_eq e.symm)
  simp [State.freqAt, this]

theorem freqAt_of_cleared {s : State} (h : s.freq = Vector.replicate 256 0#32) (sym : Byte) :
    s.freqAt sym = 0#32 := by
  simp [State.freqAt, h]

theorem codeAt_of_cleared {s : State} (h : s.code = Vector.replicate 256 []) (sym : Byte) :
    s.codeAt sym = [] := by
  simp [State.codeAt, h]

/-- Replacing one entry of a list of numbers moves the sum by the difference. -/
theorem sum_set_add (l : List Nat) (i : Nat) (v : Nat) (h : i < l.length) :
    (l.set i v).sum + l[i] = l.sum + v := by
  induction l generalizing i with
  | nil => simp at h
  | cons a l ih =>
    cases i with
    | zero => simp; omega
    | succ i =>
      have := ih i (by simpa using h)
      simp
      omega

/-- FREQ[s] <- v moves the sum of FREQ by v - FREQ[s] (R424). -/
theorem sum_setFreq (s : State) (sym : Byte) (v : Word) :
    ((s.setFreq sym v).freq.toList.map BitVec.toNat).sum + (s.freqAt sym).toNat =
      (s.freq.toList.map BitVec.toNat).sum + v.toNat := by
  have hl : sym.toNat < (s.freq.toList.map BitVec.toNat).length := by simpa using sym.isLt
  have h := sum_set_add (s.freq.toList.map BitVec.toNat) sym.toNat v.toNat hl
  simpa [State.freqAt, Vector.toList_set, List.map_set] using h

/-- FREQ[s] <= TOTAL (R423, R426), in a state that meets R141. -/
theorem freqAt_le_total {s : State} (h : FreqLaw s) (sym : Byte) :
    (s.freqAt sym).toNat ≤ s.total.toNat := by
  unfold FreqLaw at h
  rw [h]
  apply List.le_sum_of_mem
  simp only [List.mem_map]
  exact ⟨s.freqAt sym, by simp [State.freqAt], rfl⟩

/-! ### SERBUF -/

@[simp] theorem Memory.lookup_write_same (m : Memory) (i : Nat) (w : Word) :
    (m.write i w).lookup i = some w := by
  induction m with
  | nil => simp [Memory.write, Memory.lookup]
  | cons c m ih =>
    obtain ⟨j, v⟩ := c
    simp only [Memory.write]
    split
    · simp [Memory.lookup]
    · split
      · simp [Memory.lookup]
      · simp [Memory.lookup, *]

theorem Memory.lookup_write_other (m : Memory) {i k : Nat} (w : Word) (h : k ≠ i) :
    (m.write i w).lookup k = m.lookup k := by
  induction m with
  | nil => simp [Memory.write, Memory.lookup, h]
  | cons c m ih =>
    obtain ⟨j, v⟩ := c
    simp only [Memory.write]
    split
    · simp [Memory.lookup, h]
    · split
      · subst_vars; simp [Memory.lookup, h]
      · simp [Memory.lookup, ih]

/-- The canonical form of a list with a first entry: the entry's index is in bounds and below every
index that follows, and the rest is in the form. -/
theorem Memory.wf_cons (i : Nat) (w : Word) (m : Memory) :
    Memory.wf ((i, w) :: m) = true ↔
      i < Config.serbufWords ∧ (∀ e ∈ m, i < e.1) ∧ Memory.wf m = true := by
  induction m generalizing i w with
  | nil => simp [Memory.wf]
  | cons c m ih =>
    obtain ⟨j, v⟩ := c
    simp only [Memory.wf, Bool.and_eq_true, decide_eq_true_eq, ih, List.mem_cons]
    constructor
    · rintro ⟨hij, hj, hm, hw⟩
      refine ⟨by omega, ?_, hj, hm, hw⟩
      rintro e (rfl | he)
      · exact hij
      · exact Nat.lt_trans hij (hm e he)
    · rintro ⟨_, hall, hj, hm, hw⟩
      exact ⟨hall (j, v) (Or.inl rfl), hj, hm, hw⟩

theorem Memory.mem_write {m : Memory} {i : Nat} {w : Word} {e : Nat × Word}
    (h : e ∈ m.write i w) : e.1 = i ∨ e ∈ m := by
  induction m with
  | nil => simp [Memory.write] at h; simp [h]
  | cons c m ih =>
    obtain ⟨j, v⟩ := c
    simp only [Memory.write] at h
    split at h
    · rcases List.mem_cons.1 h with rfl | h
      · exact Or.inl rfl
      · exact Or.inr h
    · split at h
      · rcases List.mem_cons.1 h with rfl | h
        · exact Or.inl rfl
        · exact Or.inr (List.mem_cons_of_mem _ h)
      · rcases List.mem_cons.1 h with rfl | h
        · exact Or.inr (List.mem_cons_self ..)
        · exact (ih h).imp id (List.mem_cons_of_mem _)

/-- A write inside SERBUF keeps the canonical form. -/
theorem Memory.wf_write {m : Memory} (hm : m.wf = true) {i : Nat} (hi : i < Config.serbufWords)
    (w : Word) : (m.write i w).wf = true := by
  induction m with
  | nil => simpa [Memory.write, Memory.wf] using hi
  | cons c m ih =>
    obtain ⟨j, v⟩ := c
    have hc := (Memory.wf_cons j v m).1 hm
    simp only [Memory.write]
    split
    · rename_i hij
      refine (Memory.wf_cons _ _ _).2 ⟨hi, ?_, hm⟩
      intro e he
      rcases List.mem_cons.1 he with rfl | he
      · exact hij
      · exact Nat.lt_trans hij (hc.2.1 e he)
    · split
      · subst_vars
        exact (Memory.wf_cons _ _ _).2 ⟨hi, hc.2.1, hc.2.2⟩
      · refine (Memory.wf_cons _ _ _).2 ⟨hc.1, ?_, ih hc.2.2⟩
        intro e he
        rcases Memory.mem_write he with h | h
        · omega
        · exact hc.2.1 e h

/-- Consecutive writes inside SERBUF keep the canonical form. -/
theorem Memory.wf_writeFrom {m : Memory} (hm : m.wf = true) {i : Nat} {ws : List Word}
    (hi : i + ws.length ≤ Config.serbufWords) : (m.writeFrom i ws).wf = true := by
  induction ws generalizing m i with
  | nil => exact hm
  | cons w ws ih =>
    simp only [List.length_cons] at hi
    exact ih (Memory.wf_write hm (by omega) w) (by omega)

/-- An index outside a run of consecutive writes reads as before. -/
theorem Memory.lookup_writeFrom_outside (m : Memory) (i : Nat) (ws : List Word) {k : Nat}
    (hk : k < i ∨ i + ws.length ≤ k) : (m.writeFrom i ws).lookup k = m.lookup k := by
  induction ws generalizing m i with
  | nil => rfl
  | cons w ws ih =>
    simp only [List.length_cons] at hk
    rw [Memory.writeFrom, ih (m.write i w) (i + 1) (by omega),
      Memory.lookup_write_other m w (by omega)]

/-- An index inside a run of consecutive writes reads as the word written there. -/
theorem Memory.lookup_writeFrom_inside (m : Memory) (i : Nat) (ws : List Word) {k : Nat}
    (hk : k < ws.length) : (m.writeFrom i ws).lookup (i + k) = some ws[k] := by
  induction ws generalizing m i k with
  | nil => simp at hk
  | cons w ws ih =>
    cases k with
    | zero =>
      rw [Memory.writeFrom, Memory.lookup_writeFrom_outside _ _ _ (by omega)]
      simp
    | succ k =>
      have := ih (m.write i w) (i + 1) (k := k) (by simpa using hk)
      simpa [Memory.writeFrom, Nat.add_assoc, Nat.add_comm 1 k] using this

theorem reset_serbuf_wf : State.reset.serbuf.wf = true := rfl

/-! ### The working set of BUILD -/

theorem Key.before_asymm {a b : Key} (h : a.before b = true) : b.before a = false := by
  simp [Key.before] at *
  omega

theorem Key.before_trans {a b c : Key} (h : a.before b = true) (h' : b.before c = true) :
    a.before c = true := by
  simp [Key.before] at *
  omega

/-- takeLeast answers the least key of a non-empty working set and the rest of it. -/
theorem takeLeast_spec {work rest : List Key} {m : Key} (h : takeLeast work = some (m, rest)) :
    work.Perm (m :: rest) ∧ ∀ k ∈ rest, k.before m = false := by
  induction work generalizing m rest with
  | nil => simp [takeLeast] at h
  | cons k ks ih =>
    simp only [takeLeast] at h
    split at h
    · rename_i hks
      obtain ⟨rfl, rfl⟩ := by simpa using h
      have : ks = [] := by
        cases ks with
        | nil => rfl
        | cons a as =>
          simp only [takeLeast] at hks
          split at hks
          · simp at hks
          · split at hks <;> simp at hks
      simp [this]
    · rename_i m' rest' hks
      obtain ⟨hp, hl⟩ := ih hks
      split at h
      · rename_i hb
        obtain ⟨rfl, rfl⟩ := by simpa using h
        refine ⟨List.Perm.refl _, fun x hx => ?_⟩
        rcases List.mem_cons.1 (hp.mem_iff.1 hx) with rfl | hx'
        · exact Key.before_asymm hb
        · cases hc : x.before k with
          | false => rfl
          | true => exact absurd (Key.before_trans hc hb) (by simp [hl x hx'])
      · rename_i hb
        obtain ⟨rfl, rfl⟩ := by simpa using h
        refine ⟨(hp.cons k).trans (List.Perm.swap ..), fun x hx => ?_⟩
        rcases List.mem_cons.1 hx with rfl | hx'
        · simpa using hb
        · exact hl x hx'

theorem takeLeast_eq_none_iff {work : List Key} : takeLeast work = none ↔ work = [] := by
  cases work with
  | nil => simp [takeLeast]
  | cons k ks =>
    simp only [takeLeast]
    split
    · simp
    · split <;> simp

/-! ### The tree -/

/-- What a tree read out of the arena says about the entry it was read from. -/
theorem readTree_cases {arena : List Node} {depth : Nat} {i : NodeIdx} {t : HTree}
    (h : readTree arena (depth + 1) i = .ok t) :
    (∃ sym f, arena[i.toNat]? = some (.leaf sym f) ∧ t = .leaf sym f) ∨
    (∃ f l r tl tr, arena[i.toNat]? = some (.inner f l r) ∧ readTree arena depth l = .ok tl ∧
      readTree arena depth r = .ok tr ∧ t = .node f tl tr) := by
  rw [readTree] at h
  split at h
  · simp at h
  · rename_i sym f he
    exact Or.inl ⟨sym, f, he, by simpa using h.symm⟩
  · rename_i f l r he
    split at h
    · simp at h
    · rename_i tl hl
      split at h
      · simp at h
      · rename_i tr hr
        exact Or.inr ⟨f, l, r, tl, tr, he, hl, hr, by simpa using h.symm⟩

/-- A full binary tree with L leaves has 2L - 1 nodes (R443, R532). -/
theorem HTree.size_add_one (t : HTree) : t.size + 1 = 2 * t.leaves := by
  induction t with
  | leaf sym f => rfl
  | node f l r ihl ihr => simp only [HTree.size, HTree.leaves]; omega

theorem HTree.layout_length (t : HTree) (i : Nat) : (t.layout i).length = t.size := by
  induction t generalizing i with
  | leaf sym f => rfl
  | node f l r ihl ihr => simp [HTree.layout, HTree.size, ihl, ihr]; omega

theorem HTree.records_length (t : HTree) : t.records.length = 2 * t.size := by
  induction t with
  | leaf sym f => rfl
  | node f l r ihl ihr => simp [HTree.records, HTree.size, ihl, ihr]; omega

@[simp] theorem HTree.subtrees_length (t : HTree) : t.subtrees.length = t.size := by
  induction t with
  | leaf sym f => rfl
  | node f l r ihl ihr => simp [HTree.subtrees, HTree.size, ihl, ihr]; omega

@[simp] theorem HTree.subtrees_zero (t : HTree) : t.subtrees[0]? = some t := by
  cases t <;> rfl

/-- The word a leaf's record carries is the header R523 gives it. -/
theorem leafHeader_eq (sym : Byte) : leafHeader sym = 0xA4000000#32 ||| zext32 sym := by
  apply BitVec.eq_of_toNat_eq
  have h := sym.isLt
  rw [leafHeader, BitVec.toNat_append, BitVec.toNat_or, BitVec.toNat_setWidth,
    Nat.mod_eq_of_lt (Nat.lt_trans h (by decide))]
  rfl

/-! ### The register window -/

/-- The sixteen offsets of R110 name their registers. -/
@[simp] theorem regAt_regOffset (r : Reg) : regAt (regOffset r) = some r := by cases r <;> rfl

/-- An aligned 32-bit access at a register's address reaches that register. -/
@[simp] theorem wordAccess_regOffset (p : Params) (r : Reg) :
    wordAccess p (p.base + regOffset r) 4 = some r := by
  simp [wordAccess]

theorem touchesWindow_regOffset (p : Params) (r : Reg) :
    touchesWindow p (p.base + regOffset r) 4 = true := by
  have h : regOffset r + 4 ≤ 64 := by cases r <;> decide
  simp only [touchesWindow, Config.windowBytes, Bool.and_eq_true, decide_eq_true_eq]
  omega

@[simp] theorem polled_serbuf (t : State) : (polled t).serbuf = t.serbuf := rfl
@[simp] theorem polled_params (t : State) : (polled t).params = t.params := rfl
@[simp] theorem polled_busy (t : State) : (polled t).busy = t.busy := rfl
@[simp] theorem polled_bus (t : State) : (polled t).bus = t.bus := rfl
@[simp] theorem polled_readData (t : State) : (polled t).readData = lanesOf (statusWord t) := rfl

/-! ### Dispatch -/

/-- No command is refused. -/
theorem exec_ne_refused (i : Instr) (s : State) (r : Refusal) : exec i s ≠ .refused r := by
  cases i <;>
    simp only [exec, execNop, execSoftReset, execErrClear, execFreqClear, execFreqCount, execFreqWrite,
      execFreqRead, execBuild, execTreeClear, execNodeRead, execGenCodes, execCodeRead, execEncClear,
      execEncSym, execOutPop, execDecReset, execDecBit, execDecWord, execDecEnd, execSerBuild,
      execSerRead, execDesWrite, execDesRun] <;>
    (repeat' split) <;> simp

end Machine
end Sys2Proof
end

