-- ==== Sys2Proof/Laws/PerInstr.lean ====
section
/-! SUPPORT. What is proved of every command, one lemma per constructor of Instr.
Family OpcodeRow: the encoding of a command has the command's opcode in OPC, and the opcode map (R304) has a
format and a command of the same mnemonic for it. -/

namespace Sys2Proof
namespace Laws

/-- OPC of an encoded word is what R304 lists, whatever the immediate field is. -/
theorem opcOf_append (opc : Byte) (imm : BitVec 24) : opcOf (opc ++ imm) = opc := by
  ext i hi
  have h := BitVec.getLsbD_append (x := opc) (y := imm) (i := 24 + i)
  simp only [opcOf, BitVec.getElem_extractLsb']
  rw [h]
  simp [hi]

/-- IMM of an encoded word is the immediate field, whatever the opcode is. -/
theorem immOf_append (opc : Byte) (imm : BitVec 24) : immOf (opc ++ imm) = imm := by
  ext i hi
  have h := BitVec.getLsbD_append (x := opc) (y := imm) (i := 0 + i)
  simp only [immOf, BitVec.getElem_extractLsb']
  rw [h]
  simp [hi]

/-- The opcode map of R304 agrees with itself at the command's own opcode. -/
def OpcodeRow.Statement (i : Instr) : Prop :=
  opcOf (encode i) = opcodeOf i ∧ immOf (encode i) = immediateOf i ∧
    (formatOf (opcodeOf i)).isSome = true ∧
    (commandOf (opcodeOf i) (immediateOf i)).map mnemonicOf = some (mnemonicOf i)

theorem OpcodeRow.nop : OpcodeRow.Statement .nop :=
  ⟨opcOf_append _ _, immOf_append _ _, rfl, rfl⟩

theorem OpcodeRow.softReset : OpcodeRow.Statement .softReset :=
  ⟨opcOf_append _ _, immOf_append _ _, rfl, rfl⟩

theorem OpcodeRow.errClear : OpcodeRow.Statement .errClear :=
  ⟨opcOf_append _ _, immOf_append _ _, rfl, rfl⟩

theorem OpcodeRow.freqClear : OpcodeRow.Statement .freqClear :=
  ⟨opcOf_append _ _, immOf_append _ _, rfl, rfl⟩

theorem OpcodeRow.freqCount (sym : Byte) : OpcodeRow.Statement (.freqCount sym) :=
  ⟨opcOf_append _ _, immOf_append _ _, rfl, rfl⟩

theorem OpcodeRow.freqWrite (sym : Byte) : OpcodeRow.Statement (.freqWrite sym) :=
  ⟨opcOf_append _ _, immOf_append _ _, rfl, rfl⟩

theorem OpcodeRow.freqRead (sym : Byte) : OpcodeRow.Statement (.freqRead sym) :=
  ⟨opcOf_append _ _, immOf_append _ _, rfl, rfl⟩

theorem OpcodeRow.build : OpcodeRow.Statement .build :=
  ⟨opcOf_append _ _, immOf_append _ _, rfl, rfl⟩

theorem OpcodeRow.treeClear : OpcodeRow.Statement .treeClear :=
  ⟨opcOf_append _ _, immOf_append _ _, rfl, rfl⟩

theorem OpcodeRow.nodeRead (idx : BitVec 10) : OpcodeRow.Statement (.nodeRead idx) :=
  ⟨opcOf_append _ _, immOf_append _ _, rfl, rfl⟩

theorem OpcodeRow.genCodes : OpcodeRow.Statement .genCodes :=
  ⟨opcOf_append _ _, immOf_append _ _, rfl, rfl⟩

theorem OpcodeRow.codeRead (sym : Byte) (wrd : BitVec 3) : OpcodeRow.Statement (.codeRead sym wrd) :=
  ⟨opcOf_append _ _, immOf_append _ _, rfl, rfl⟩

theorem OpcodeRow.encClear : OpcodeRow.Statement .encClear :=
  ⟨opcOf_append _ _, immOf_append _ _, rfl, rfl⟩

theorem OpcodeRow.encSym (sym : Byte) : OpcodeRow.Statement (.encSym sym) :=
  ⟨opcOf_append _ _, immOf_append _ _, rfl, rfl⟩

theorem OpcodeRow.outPop : OpcodeRow.Statement .outPop :=
  ⟨opcOf_append _ _, immOf_append _ _, rfl, rfl⟩

theorem OpcodeRow.decReset : OpcodeRow.Statement .decReset :=
  ⟨opcOf_append _ _, immOf_append _ _, rfl, rfl⟩

theorem OpcodeRow.decBit (bit : Bool) : OpcodeRow.Statement (.decBit bit) :=
  ⟨opcOf_append _ _, immOf_append _ _, rfl, rfl⟩

theorem OpcodeRow.decWord (cnt : BitVec 6) : OpcodeRow.Statement (.decWord cnt) :=
  ⟨opcOf_append _ _, immOf_append _ _, rfl, rfl⟩

theorem OpcodeRow.decEnd : OpcodeRow.Statement .decEnd :=
  ⟨opcOf_append _ _, immOf_append _ _, rfl, rfl⟩

theorem OpcodeRow.serBuild : OpcodeRow.Statement .serBuild :=
  ⟨opcOf_append _ _, immOf_append _ _, rfl, rfl⟩

theorem OpcodeRow.serRead (idx : BitVec 10) : OpcodeRow.Statement (.serRead idx) :=
  ⟨opcOf_append _ _, immOf_append _ _, rfl, rfl⟩

theorem OpcodeRow.desWrite (idx : BitVec 10) : OpcodeRow.Statement (.desWrite idx) :=
  ⟨opcOf_append _ _, immOf_append _ _, rfl, rfl⟩

theorem OpcodeRow.desRun : OpcodeRow.Statement .desRun :=
  ⟨opcOf_append _ _, immOf_append _ _, rfl, rfl⟩

end Laws
end Sys2Proof
end

