-- ==== Sys2Proof/Tests/Slice0.lean ====
section
/-! SUPPORT. The model's own tests: words written out from the encoding tables (30_encoding.md R302, R304), the
checks of WellFormed refusing ill-formed terms, one or two single commands per instruction with the results
of 95_test_vectors.md, and a witness for every statement of Certificates/ that has hypotheses. -/

namespace Sys2Proof
namespace Tests

open Machine

/-! ### Decoding (words from R304 and R302, bit by bit where in binary) -/

theorem test_decode_nop : decode 0b00000000000000000000000000000000#32 = .ok .nop := rfl
theorem test_decode_softReset : decode 0x01000000#32 = .ok .softReset := rfl
theorem test_decode_errClear : decode 0x02000000#32 = .ok .errClear := rfl
theorem test_decode_freqClear : decode 0x10000000#32 = .ok .freqClear := rfl
theorem test_decode_freqCount :
    decode 0b00010001000000000000000001100001#32 = .ok (.freqCount 0x61#8) := rfl
theorem test_decode_freqWrite : decode 0x120000FF#32 = .ok (.freqWrite 0xFF#8) := rfl
theorem test_decode_freqRead : decode 0x13000063#32 = .ok (.freqRead 0x63#8) := rfl
theorem test_decode_build : decode 0x20000000#32 = .ok .build := rfl
theorem test_decode_treeClear : decode 0x21000000#32 = .ok .treeClear := rfl
theorem test_decode_nodeRead :
    decode 0b00100010000000000000001100000001#32 = .ok (.nodeRead 0b1100000001#10) := rfl
theorem test_decode_genCodes : decode 0x30000000#32 = .ok .genCodes := rfl
theorem test_decode_codeRead :
    decode 0b00110001000000000000011001100010#32 = .ok (.codeRead 0b01100010#8 0b110#3) := rfl
theorem test_decode_encClear : decode 0x40000000#32 = .ok .encClear := rfl
theorem test_decode_encSym :
    decode 0b01000001000000000000000001111010#32 = .ok (.encSym 0b01111010#8) := rfl
theorem test_decode_outPop : decode 0x42000000#32 = .ok .outPop := rfl
theorem test_decode_decReset : decode 0x50000000#32 = .ok .decReset := rfl
theorem test_decode_decBit :
    decode 0b01010001000000000000000000000001#32 = .ok (.decBit true) := rfl
theorem test_decode_decWord :
    decode 0b01010010000000000000000000100110#32 = .ok (.decWord 0b100110#6) := rfl
theorem test_decode_decEnd : decode 0x53000000#32 = .ok .decEnd := rfl
theorem test_decode_serBuild : decode 0x60000000#32 = .ok .serBuild := rfl
theorem test_decode_serRead :
    decode 0b01100001000000000000001000000011#32 = .ok (.serRead 0b1000000011#10) := rfl
theorem test_decode_desWrite : decode 0x620003FE#32 = .ok (.desWrite 0x3FE#10) := rfl
theorem test_decode_desRun : decode 0x63000000#32 = .ok .desRun := rfl

/-- CT2, CT3, CT4, CT9 to CT12: the illegal words of 95_test_vectors.md. -/
theorem test_decode_illegal :
    decode 0x00000001#32 = .error (.reservedBitSet 1#24) ∧
    decode 0x03000000#32 = .error (.unassignedOpcode 3#8) ∧
    decode 0xFFFFFFFF#32 = .error (.unassignedOpcode 0xFF#8) ∧
    decode 0x42000001#32 = .error (.reservedBitSet 1#24) ∧
    decode 0x31000800#32 = .error (.reservedBitSet 0x800#24) ∧
    decode 0x52000040#32 = .error (.reservedBitSet 0x40#24) ∧
    decode 0x22000400#32 = .error (.reservedBitSet 0x400#24) := ⟨rfl, rfl, rfl, rfl, rfl, rfl, rfl⟩

theorem test_decodeBytes : decodeBytes [0x61#8, 0x00#8, 0x00#8, 0x11#8] = .ok (.freqCount 0x61#8) ∧
    decodeBytes [0x61#8, 0x11#8] = .error (.notOneWord 2) := ⟨rfl, rfl⟩

theorem test_decodeTableWord : decodeTableWord 32 0x5200000E = some (.decWord 14#6) ∧
    decodeTableWord 32 0x03000000 = none := by decide

theorem test_encode : encode (.decWord 14#6) = 0x5200000E#32 ∧ encode (.decBit true) = 0x51000001#32 ∧
    encode (.codeRead 0x62#8 1#3) = 0x31000162#32 ∧ encode (.nodeRead 0x1FE#10) = 0x220001FE#32 := by
  decide

/-! ### WellFormed: an ill-formed term for each check, refused -/

theorem test_illformed_decWord_zero : (Instr.decWord 0#6).argsInRange = false := rfl
theorem test_illformed_decWord_33 : (Instr.decWord 33#6).argsInRange = false := rfl
theorem test_illformed_serRead : (Instr.serRead 1023#10).argsInRange = false := rfl
theorem test_illformed_desWrite : (Instr.desWrite 1023#10).argsInRange = false := rfl
theorem test_wellformed_args : (Instr.decWord 32#6).argsInRange = true ∧
    (Instr.serRead 1022#10).argsInRange = true := ⟨rfl, rfl⟩
theorem test_illformed_desImage_empty : (Stmt.desImage []).wf = false := rfl
theorem test_wellformed_desImage : (Stmt.desImage [0#32]).wf = true := rfl
theorem test_illformed_desImage_long : (Stmt.desImage (List.replicate 1025 0#32)).wf = false := by
  rw [Stmt.wf, List.length_replicate]; rfl
theorem test_illformed_base : (Params.mk 32 512).wf = false := by decide
theorem test_illformed_obuf_small : (Params.mk 0 254).wf = false := by decide
theorem test_illformed_obuf_large : (Params.mk 0 65536).wf = false := by decide
theorem test_wellformed_params : Params.default.wf = true := by decide
theorem test_illformed_width : (HostMove.read 0x10 2).wf Params.default = false := by decide
theorem test_illformed_lanes : (HostMove.write 0x0C [1#8]).wf Params.default = false := by decide
theorem test_illformed_alignment : (HostMove.read 0x12 4).wf Params.default = false := by decide
theorem test_illformed_below : (HostMove.read 0x3C 4).wf ⟨0x40, 512⟩ = false := by decide
theorem test_illformed_above : (HostMove.write 0x40 (lanesOf 0#32)).wf Params.default = false := by
  decide
theorem test_wellformed_access : (HostMove.read 0x3C 4).wf Params.default = true := by decide

/-! ### Single commands (expected values from 95_test_vectors.md, section 2) -/

/-- STATUS, RESULT0 and RESULT1 after a command. -/
def report (a : Answer) : Option (Word × Word × Word) :=
  match a with
  | .next t => some (statusWord t, t.result0, t.result1)
  | _ => none

/-- A register after a command. -/
def after (r : Reg) (a : Answer) : Option Word :=
  match a with
  | .next t => some (readReg r t)
  | _ => none

/-- A word of SERBUF after a command. -/
def serAfter (i : Nat) (a : Answer) : Option Word :=
  match a with
  | .next t => t.serbuf.lookup i
  | _ => none

/-- The arena after a command. -/
def arenaAfter (a : Answer) : List Node :=
  match a with
  | .next t => t.arena
  | _ => []

/-- The code of a symbol after a command. -/
def codeAfter (sym : Byte) (a : Answer) : Option (List Bool) :=
  match a with
  | .next t => some (t.codeAt sym)
  | _ => none

/-- A block in which nothing but these counts has happened. -/
def counted (counts : List (Byte × Word)) : State :=
  counts.foldl (fun s c => { s.setFreq c.1 c.2 with total := s.total + c.2 }) State.reset

/-- A block with this tree loaded, the Decoder at its root. -/
def loaded (nodes : List Node) (root : NodeIdx) (nleaves : Nat) : State :=
  loadTree nodes root nleaves State.reset

/-- Tree BL1, of a:4 b:3 c:2. -/
def bl1 : State :=
  loaded [.leaf 0x61#8 4#32, .leaf 0x62#8 3#32, .leaf 0x63#8 2#32, .inner 5#32 2#9 1#9,
    .inner 9#32 0#9 3#9] 4#9 3

/-- The tree of "ab". -/
def ab : State := loaded [.leaf 0x61#8 1#32, .leaf 0x62#8 1#32, .inner 2#32 0#9 1#9] 2#9 2

/-- Tree BL8, of z:4. -/
def bl8 : State := loaded [.leaf 0x7A#8 4#32] 0#9 1

/-- The code of 'b' in BL7, and nothing else. -/
def codeOfB : State :=
  { State.reset with code := State.reset.code.set 0x62 [true, true, false], codesValid := true }

/-- The image of z:4 in SERBUF (SR6). -/
def zImage : Memory := [(0, 0x48541001#32), (1, 0xA400007A#32), (2, 4#32)]

theorem test_nop : report (exec .nop State.reset) = some (0#32, 0#32, 0#32) := by decide
theorem test_softReset : report (exec .softReset ab) = some (0x100#32, 0#32, 0#32) ∧
    after .treeInfo (exec .softReset ab) = some 0x1FF#32 := by decide
/-- R402's example. -/
theorem test_errClear :
    report (exec .errClear (raise .illegalCommand 0x20000001#32 0x20#8 State.reset)) =
      some (0x200#32, 0#32, 0#32) := by decide
theorem test_freqClear : after .freqTotal (exec .freqClear (counted [(0x61#8, 4#32)])) = some 0#32 := by
  decide
/-- FQ1, FQ3. -/
theorem test_freqCount : report (exec (.freqCount 0x61#8) State.reset) = some (0x1100#32, 1#32, 1#32) := by
  decide
theorem test_freqCount_overflow :
    report (exec (.freqCount 0x61#8) (counted [(0#8, 0xFFFFFFFF#32)])) =
      some (0x1182#32, 0x61#32, 0#32) := by decide
/-- FQ5, FQ4. -/
theorem test_freqWrite :
    report (exec (.freqWrite 0#8) { counted [(0#8, 0xFFFFFFFF#32)] with dataIn := 0xFFFFFFFE#32 }) =
      some (0x1200#32, 0xFFFFFFFE#32, 0xFFFFFFFE#32) := by decide
theorem test_freqWrite_overflow :
    report (exec (.freqWrite 0x62#8) { counted [(0#8, 0xFFFFFFFF#32)] with dataIn := 1#32 }) =
      some (0x1282#32, 0x62#32, 0#32) := by decide
/-- FQ12. -/
theorem test_freqRead :
    report (exec (.freqRead 0x63#8) (counted [(0x61#8, 4#32), (0x62#8, 3#32), (0x63#8, 2#32)])) =
      some (0x1300#32, 2#32, 9#32) := by decide
/-- BL1, BL2: the second has the tie of R444. -/
theorem test_build :
    arenaAfter (exec .build (counted [(0x61#8, 4#32), (0x62#8, 3#32), (0x63#8, 2#32)])) = bl1.nodes := by
  decide
theorem test_build_ties :
    (arenaAfter (exec .build (counted [(0x61#8, 1#32), (0x62#8, 1#32), (0x63#8, 2#32)]))).drop 3 =
      [.inner 2#32 0#9 1#9, .inner 4#32 2#9 3#9] := by decide
theorem test_treeClear : after .treeInfo (exec .treeClear ab) = some 0x1FF#32 ∧
    after .decInfo (exec .treeClear ab) = some 0x3FF#32 := by decide
/-- BL13, BL14. -/
theorem test_nodeRead : report (exec (.nodeRead 0#10) bl1) = some (0x2200#32, 0x87FFFE61#32, 4#32) ∧
    report (exec (.nodeRead 3#10) bl1) = some (0x2200#32, 0x00080200#32, 5#32) := by decide
/-- BL15. -/
theorem test_nodeRead_range : report (exec (.nodeRead 5#10) bl1) = some (0x2262#32, 5#32, 0#32) := by
  decide
/-- BL1, CD1. -/
theorem test_genCodes : codeAfter 0x62#8 (exec .genCodes bl1) = some [true, true] ∧
    report (exec .genCodes bl1) = some (0x3000#32, 3#32, 2#32) := by decide +kernel
theorem test_genCodes_noTree : report (exec .genCodes State.reset) = some (0x3072#32, 0#32, 0#32) := by
  decide
/-- CD3, CD5. -/
theorem test_codeRead :
    report (exec (.codeRead 0x62#8 0#3) codeOfB) = some (0x3100#32, 0xC0000000#32, 3#32) ∧
    report (exec (.codeRead 0x62#8 1#3) codeOfB) = some (0x3100#32, 0#32, 3#32) := by decide
theorem test_encClear : after .encInfo (exec .encClear { State.reset with obuf := [true] }) =
    some 0#32 := by decide
theorem test_encSym : report (exec (.encSym 0x62#8) codeOfB) = some (0x4100#32, 3#32, 3#32) := by decide
/-- EN1. -/
theorem test_encSym_unknown :
    report (exec (.encSym 0x61#8) codeOfB) = some (0x4122#32, 0x61#32, 0#32) := by decide
/-- R486's example: 00001111111010. -/
theorem test_outPop :
    report (exec .outPop { State.reset with obuf :=
      [false, false, false, false, true, true, true, true, true, true, true, false, true, false] }) =
      some (0x4200#32, 0x0FE80000#32, 14#32) := by decide
/-- R501's example. -/
theorem test_decReset : report (exec .decReset { bl1 with decNode := 3#9 }) =
    some (0x5000#32, 4#32, 0#32) := by decide
/-- R503's example: a 1 bit from the root, then a 0 bit from node 3. -/
theorem test_decBit : report (exec (.decBit true) bl1) = some (0x5100#32, 0#32, 3#32) ∧
    report (exec (.decBit false) { bl1 with decNode := 3#9 }) =
      some (0x5100#32, 0x80000063#32, 4#32) := by decide
/-- DC16. -/
theorem test_decBit_degenerate :
    report (exec (.decBit true) bl8) = some (0x5132#32, 0x80000000#32, 0#32) := by decide
/-- R506's example. -/
theorem test_decWord : report (exec (.decWord 14#6) { bl1 with dataIn := 0x0FE80000#32 }) =
    some (0x5200#32, 0x80000061#32, 1#32) := by decide
/-- DC7, DC2. -/
theorem test_decWord_range :
    report (exec (.decWord 33#6) State.reset) = some (0x5262#32, 0x21#32, 0#32) ∧
    report (exec (.decWord 0#6) State.reset) = some (0x5262#32, 0#32, 0#32) := by decide
/-- Section 1.4. -/
theorem test_decEnd : report (exec .decEnd { bl1 with decNode := 3#9 }) =
    some (0x5332#32, 3#32, 0#32) := by decide
/-- R524's example: SERBUF[3] and SERBUF[10], and the results. -/
theorem test_serBuild : report (exec .serBuild bl1) = some (0x6000#32, 11#32, 5#32) ∧
    serAfter 3 (exec .serBuild bl1) = some 0xA4000061#32 ∧
    serAfter 10 (exec .serBuild bl1) = some 3#32 := by decide
/-- SR1. -/
theorem test_serRead_range : report (exec (.serRead 1023#10) State.reset) =
    some (0x6162#32, 0x3FF#32, 0#32) := by decide
theorem test_serRead : report (exec (.serRead 1#10) { State.reset with serbuf := zImage }) =
    some (0x6100#32, 0xA400007A#32, 0#32) := by decide
theorem test_desWrite :
    serAfter 1022 (exec (.desWrite 1022#10) { State.reset with dataIn := 5#32 }) = some 5#32 := by decide
/-- SR2. -/
theorem test_desWrite_range : report (exec (.desWrite 1023#10) State.reset) =
    some (0x6262#32, 0x3FF#32, 0#32) := by decide
/-- The image of BL7 (95_test_vectors.md, section 2.8). -/
def bl7Image : List Word :=
  [0x48541009#32, 0xA3000000#32, 11#32, 0xA4000061#32, 5#32, 0xA3000000#32, 6#32, 0xA3000000#32, 2#32] ++
  [0xA4000063#32, 1#32, 0xA4000064#32, 1#32, 0xA3000000#32, 4#32, 0xA4000062#32, 2#32] ++
  [0xA4000072#32, 2#32]

/-- SR6, and the two internal entries that section 2.8 reads after DES_RUN of the image of BL7. -/
theorem test_desRun : report (exec .desRun { ab with serbuf := zImage }) =
      some (0x6300#32, 1#32, 1#32) ∧
    after .treeInfo (exec .desRun { ab with serbuf := zImage }) = some 0x08040200#32 ∧
    (let arena := arenaAfter (exec .desRun { ab with serbuf := Memory.writeFrom [] 0 bl7Image })
     arena[0]?.map nodeWord = some 0x00040400#32 ∧ arena[2]?.map nodeWord = some 0x000C0C00#32) := by
  decide +kernel
/-- SR19: the zero frequency is reported before the repeated symbol. -/
theorem test_desRun_error : report (exec .desRun { ab with serbuf :=
      [(0, 0x48541003#32), (1, 0xA3000000#32), (2, 1#32), (3, 0xA4000061#32), (4, 1#32),
       (5, 0xA4000061#32), (6, 0#32)] }) = some (0x6342#32, 6#32, 0#32) := by decide

/-! ### Host moves -/

/-- R203, BUS2: a byte write to CMD is no command; a read of CMD gives 0. -/
theorem test_narrow_write :
    report (step { ab with bus := [.write 0x0B [0x21#8]] }) = some (0#32, 0#32, 0#32) ∧
    after .treeInfo (step { ab with bus := [.write 0x0B [0x21#8]] }) = some 0x08080602#32 := by decide

/-- R310: FREQ_LOAD 'b', 3 is a write of DATA_IN and a write of 0x12000062 to CMD, then a poll. -/
theorem test_freqLoad_moves : stmtMoves Params.default (.freqLoad 0x62#8 3#32) =
    [.write 0x0C [3#8, 0#8, 0#8, 0#8], .write 0x08 [0x62#8, 0#8, 0#8, 0x12#8], .read 0x10 4] := by decide

/-! ### Witnesses: for each statement with hypotheses, a state and operands that meet them -/

theorem ab_TreeLaw : TreeLaw ab :=
  ⟨by decide, by decide, by decide, by decide, by decide, by decide, by decide⟩
theorem bl1_TreeLaw : TreeLaw bl1 :=
  ⟨by decide, by decide, by decide, by decide, by decide, by decide, by decide⟩
theorem bl8_TreeLaw : TreeLaw bl8 :=
  ⟨by decide, by decide, by decide, by decide, by decide, by decide, by decide⟩
theorem reset_FreqLaw : FreqLaw State.reset := by unfold FreqLaw; decide +kernel
theorem counted_FreqLaw : FreqLaw (counted [(0x61#8, 4#32), (0x62#8, 3#32)]) := by
  unfold FreqLaw; decide +kernel
/-- The two ends of COUNT_OVERFLOW: FREQ_MAX and one less. -/
theorem full_FreqLaw : FreqLaw (counted [(0#8, 0xFFFFFFFF#32)]) ∧
    FreqLaw (counted [(0#8, 0xFFFFFFFE#32)]) := by
  unfold FreqLaw; decide +kernel

theorem ab_Inv : Inv ab where
  params := by decide
  idle := rfl
  freq := by unfold FreqLaw; decide +kernel
  tree := ⟨fun h => absurd h (by decide), fun _ => ab_TreeLaw⟩
  decoder := ⟨fun h => absurd h (by decide), fun _ => Or.inl rfl⟩
  codes := ⟨fun _ sym => codeAt_of_cleared rfl sym, fun h => absurd h (by decide)⟩
  buffers := by unfold BufferLaw; decide

/-- Every range end of R306's unassigned opcodes, and a word with a reserved bit set in each format. -/
theorem witness_IllegalWord :
    (let s := { State.reset with bus := [cmdWrite Params.default 0xFF000000#32] }
     s.busy = false ∧ s.bus = [cmdWrite s.params 0xFF000000#32]) ∧
    ([0x03, 0x0F, 0x14, 0x1F, 0x23, 0x2F, 0x32, 0x3F, 0x43, 0x4F, 0x54, 0x5F, 0x64, 0xFF].all fun o =>
      (opcOf (BitVec.ofNat 32 (o * 2 ^ 24))).toNat == o) = true ∧
    ([0x00800000#32, 0x11000100#32, 0x51000002#32, 0x52000040#32, 0x22000400#32, 0x31000800#32].all
      fun w => tableRows.any fun r =>
        opcOf r.pattern == opcOf w && w &&& r.mask != r.pattern) = true :=
  ⟨⟨rfl, rfl⟩, by decide, by decide⟩

theorem witness_BytesAndBits : ([] : List Bool).length ≤ 32 ∧ (List.replicate 32 true).length ≤ 32 := by
  decide

theorem witness_StepRuns :
    let s := { State.reset with bus := [cmdWrite Params.default 0x20000000#32] }
    s.busy = false ∧ decode 0x20000000#32 = .ok .build ∧
      s.bus = [cmdWrite s.params 0x20000000#32] := ⟨rfl, rfl, rfl⟩

theorem witness_StepIdle : State.reset.bus = [] := rfl

theorem witness_HostRead :
    let s := { State.reset with bus := [.read 0x3C 4] }
    s.bus = [.read (s.params.base + regOffset .reserved3C) 4] := rfl

/-- A narrow access, a misaligned one, and one that runs into the window from below. -/
theorem witness_OtherAccess :
    (touchesWindow Params.default 0x08 2 = true ∧
      ¬ (2 = 4 ∧ Params.default.base ≤ 0x08 ∧ (0x08 - Params.default.base) % 4 = 0)) ∧
    (touchesWindow Params.default 0x3F 4 = true ∧
      ¬ (4 = 4 ∧ Params.default.base ≤ 0x3F ∧ (0x3F - Params.default.base) % 4 = 0)) ∧
    (touchesWindow ⟨64, 512⟩ 61 4 = true ∧ ¬ (4 = 4 ∧ 64 ≤ 61 ∧ (61 - 64) % 4 = 0)) := by decide

theorem witness_RefusedMoves :
    (60 + 4 ≤ (Params.mk 64 512).base ∨ (Params.mk 64 512).base + 64 ≤ 60) ∧
    (64 + 4 ≤ Params.default.base ∨ Params.default.base + 64 ≤ 64) ∧
    ({ State.reset with busy := true, bus := [cmdWrite Params.default 0#32] }).busy = true := by decide

theorem witness_HostWrites :
    let s := { State.reset with bus := [.write 0x0C (lanesOf 7#32)] }
    s.busy = false ∧ Reg.dataIn ≠ .cmd ∧
      s.bus = [.write (s.params.base + regOffset .dataIn) (lanesOf 7#32)] ∧ Reg.status ≠ .cmd := by
  decide

theorem witness_HardwareReset : ({ ab with bus := [.reset] }).bus = [.reset] := rfl

/-- DEC_LOAD on a loaded tree completes, DECODE_BITS of the code of 'a' too; 1023 values are the most that
DES_IMAGE stores. -/
theorem witness_HostStatements : (bl1.busy = false ∧ bl1.bus = []) ∧
    (∃ t, exec .serBuild bl1 = .next t) ∧ (∃ t, submit 0xFF000000#32 bl1 = .next t) ∧
    Reg.status ≠ .cmd ∧ Reg.status ≠ .dataIn ∧
    (∃ t, exec (.decWord 14#6) { bl1 with dataIn := 0x0FE80000#32 } = .next t) ∧
    (∃ t, [false] ≠ [] ∧ runCommands ([false].map .decBit) bl1 = .next t) ∧
    ([0x61#8] ≠ [] ∧ [5#32] ≠ [] ∧ (List.replicate 1023 0#32).length ≤ 1023) :=
  ⟨⟨rfl, rfl⟩, ⟨_, rfl⟩, ⟨_, rfl⟩, by decide, by decide, ⟨_, rfl⟩, ⟨_, by decide, rfl⟩, by decide, by decide,
    (List.length_replicate ..).le⟩

/-- Each error code a command can end with, for the statements about errors and their causes. -/
def errorAfter (a : Answer) : Option ErrCode :=
  match a with
  | .next t => some t.lastErr
  | _ => none

theorem witness_Errors :
    errorAfter (exec .build State.reset) = some .emptyInput ∧
    errorAfter (exec (.encSym 0#8) State.reset) = some .unknownSymbol ∧
    errorAfter (exec .decEnd { bl1 with decNode := 3#9 }) = some .truncatedStream ∧
    errorAfter (exec .desRun { ab with serbuf := [(0, 0#32)] }) = some .serializationFormat ∧
    errorAfter (exec (.desWrite 1023#10) State.reset) = some .argRange ∧
    errorAfter (exec (.decBit false) State.reset) = some .noTree ∧
    errorAfter (exec (.freqCount 0#8) (counted [(0#8, 0xFFFFFFFF#32)])) = some .countOverflow ∧
    errorAfter (exec (.encSym 0x62#8) { codeOfB with obuf := List.replicate 510 true }) =
      some .obufFull := by decide +kernel

/-- A failing command (BUILD of nothing) and an illegal word. -/
theorem witness_FailedCommand :
    (∃ t, submit 0x20000000#32 State.reset = .next t ∧ t.lastErr ≠ .ok) ∧
    (∃ t, submit 0xFF000000#32 State.reset = .next t ∧ t.lastErr ≠ .ok) :=
  ⟨⟨_, rfl, by decide⟩, ⟨_, rfl, by decide⟩⟩

theorem witness_NextState : ∃ t, exec .nop State.reset = .next t := ⟨_, rfl⟩

theorem witness_FreqCount :
    (FreqLaw (counted [(0#8, 0xFFFFFFFF#32)]) ∧ (counted [(0#8, 0xFFFFFFFF#32)]).total = 0xFFFFFFFF#32) ∧
    (FreqLaw (counted [(0#8, 0xFFFFFFFE#32)]) ∧ (counted [(0#8, 0xFFFFFFFE#32)]).total ≠ 0xFFFFFFFF#32) :=
  ⟨⟨full_FreqLaw.1, by decide⟩, ⟨full_FreqLaw.2, by decide⟩⟩

/-- FQ4 and FQ2: the total just above FREQ_MAX and at it. -/
theorem witness_FreqWrite :
    ((0xFFFFFFFF : Int) - 0 + 1 > 4294967295) ∧ ((0xFFFFFFFF : Int) - 0xFFFFFFFF + 0xFFFFFFFF ≤ 4294967295) ∧
    ((counted [(0#8, 0xFFFFFFFF#32)]).total.toNat = 0xFFFFFFFF) := by decide

theorem witness_Counting : [0x61#8, 0x62#8, 0x61#8].length ≤ Config.freqMax := by decide

theorem witness_Build :
    (FreqLaw State.reset ∧ State.reset.total = 0#32) ∧
    (FreqLaw (counted [(0x61#8, 4#32), (0x62#8, 3#32)]) ∧
      (counted [(0x61#8, 4#32), (0x62#8, 3#32)]).total ≠ 0#32) :=
  ⟨⟨reset_FreqLaw, rfl⟩, ⟨counted_FreqLaw, by decide⟩⟩

/-- NODE_READ at a leaf, at the last entry, which is internal, and one past it. -/
theorem witness_NodeRead :
    ((1#10).toNat < ab.nnodes.toNat ∧ ab.arena[(1#10).toNat]? = some (.leaf 0x62#8 1#32)) ∧
    ((2#10).toNat < ab.nnodes.toNat ∧ ab.arena[(2#10).toNat]? = some (.inner 2#32 0#9 1#9)) ∧
    ab.nnodes.toNat ≤ ab.nodes.length ∧ ab.nnodes.toNat ≤ (3#10).toNat := by decide

theorem witness_GenCodes :
    State.reset.treeValid = false ∧
    (ab.treeValid = true ∧ TreeLaw ab ∧ ∃ f l r, ab.nodeAt ab.root = some (.inner f l r)) ∧
    (bl8.treeValid = true ∧ TreeLaw bl8 ∧ ∃ sym f, bl8.nodeAt bl8.root = some (.leaf sym f)) :=
  ⟨rfl, ⟨rfl, ab_TreeLaw, _, _, _, rfl⟩, ⟨rfl, bl8_TreeLaw, _, _, rfl⟩⟩

theorem witness_PrefixFree : ab.treeValid = true ∧ TreeLaw ab ∧
    Node.leaf 0x61#8 1#32 ∈ ab.arena ∧
    (codeAfter 0x61#8 (exec .genCodes ab) = some [false] ∧
      codeAfter 0x62#8 (exec .genCodes ab) = some [true]) :=
  ⟨rfl, ab_TreeLaw, by decide, by decide⟩

theorem witness_LeafDepth : TreeLaw bl1 ∧ 2 ≤ bl1.nleaves.toNat ∧
    follow bl1.arena bl1.root [true, false] = some (.leaf 0x63#8 2#32) :=
  ⟨bl1_TreeLaw, by decide, by decide⟩

/-- ENC_SYM without a code, with one that just fits (509 + 3 = 512), and with one that just does not. -/
theorem witness_EncSym :
    codeOfB.codeAt 0x61#8 = [] ∧ codeOfB.codeAt 0x62#8 ≠ [] ∧
    509 + (codeOfB.codeAt 0x62#8).length ≤ codeOfB.params.obufBits ∧
    codeOfB.params.obufBits < 510 + (codeOfB.codeAt 0x62#8).length := by decide

theorem witness_EncodingRun :
    (∀ i ∈ [Instr.encSym 0x62#8, .outPop], i = .outPop ∨ ∃ sym, i = .encSym sym) ∧
    codeOfB.obuf = [] ∧ codeOfB.encBits = 0#32 ∧
    ((encodeRun [.encSym 0x62#8, .outPop] codeOfB).map Prod.fst) = some [true, true, false] :=
  ⟨by simp, rfl, rfl, by decide⟩

/-- From the root of BL1 a 0 bit meets a leaf and a 1 bit an internal node. -/
theorem witness_DecBit :
    bl1.treeValid = true ∧ bl1.nodeAt bl1.root = some (.inner 9#32 0#9 3#9) ∧
    bl1.nodeAt bl1.decNode = some (.inner 9#32 0#9 3#9) ∧
    bl1.nodeAt 0#9 = some (.leaf 0x61#8 4#32) ∧ bl1.nodeAt 3#9 = some (.inner 5#32 2#9 1#9) := by decide

theorem witness_Degenerate :
    bl8.treeValid = true ∧ bl8.nodeAt bl8.root = some (.leaf 0x7A#8 4#32) ∧
    (1 ≤ (1#6).toNat ∧ (32#6).toNat ≤ 32) ∧ bl8.dataIn.getLsbD 31 = false ∧
    ({ bl8 with dataIn := 0x80000000#32 }).dataIn.getLsbD 31 = true := by decide

theorem witness_DecoderChecks :
    ((0#6).toNat = 0 ∨ 32 < (0#6).toNat) ∧ ((33#6).toNat = 0 ∨ 32 < (33#6).toNat) ∧
    State.reset.treeValid = false ∧ (1 ≤ (1#6).toNat ∧ (32#6).toNat ≤ 32) := by decide

theorem witness_DecWord : bl1.treeValid = true ∧ TreeLaw bl1 ∧ DecoderLaw bl1 ∧
    bl1.nodeAt bl1.root = some (.inner 9#32 0#9 3#9) ∧ 1 ≤ (32#6).toNat ∧ (32#6).toNat ≤ 32 :=
  ⟨rfl, bl1_TreeLaw, ⟨fun h => absurd h (by decide), fun _ => Or.inl rfl⟩, by decide, by decide, by decide⟩

theorem witness_DecWordRun : ∃ t, exec (.decWord 2#6) bl1 = .next t ∧ t.lastErr = .ok :=
  ⟨_, rfl, by decide⟩

theorem witness_DecEnd : ({ bl1 with decNode := 3#9 }).decNode ≠ bl1.root ∧ bl1.decNode = bl1.root := by
  decide

theorem witness_RoundTrip : [0x61#8, 0x62#8] ≠ [] ∧ [0x61#8, 0x62#8].length ≤ Config.freqMax := by decide

theorem witness_SerBuild : ab.treeValid = true ∧ TreeLaw ab ∧ State.reset.treeValid = false :=
  ⟨rfl, ab_TreeLaw, rfl⟩

theorem witness_SerRead : 1022 < (1023#10).toNat ∧ (1022#10).toNat ≤ 1022 ∧
    Memory.lookup [(1022, 5#32)] (1022#10).toNat = some 5#32 := by decide

theorem witness_DesRunImage :
    let h := HTree.leaf 0x7A#8 4#32
    h.sumsExact = true ∧ h.symbols.Nodup ∧
    (∀ j w, (imageHeader h.size :: h.records)[j]? = some w → zImage.lookup j = some w) := by
  refine ⟨by decide, by decide, fun j w => ?_⟩
  match j with
  | 0 | 1 | 2 => exact fun h => h
  | j + 3 => exact fun h => by simp [HTree.records] at h

theorem witness_DesRunEmpty :
    ({ ab with serbuf := [(0, 0x48541000#32)] }).serbuf.lookup 0 = some 0x48541000#32 := rfl

/-- SERBUF with these words from word 0 on. -/
def image (ws : List Word) : State := { ab with serbuf := Memory.writeFrom [] 0 ws }

/-- The tree that the images below begin with, and its variant with an inexact sum. -/
def hAB : HTree := .node 2#32 (.leaf 0x61#8 1#32) (.leaf 0x62#8 1#32)
def hBadSum : HTree := .node 3#32 (.leaf 0x61#8 1#32) (.leaf 0x62#8 1#32)

theorem subtrees_hAB {j : Nat} {u : HTree} (h : hAB.subtrees[j]? = some u) :
    (j = 0 ∧ u = hAB) ∨ (j = 1 ∧ u = .leaf 0x61#8 1#32) ∨ (j = 2 ∧ u = .leaf 0x62#8 1#32) := by
  match j with
  | 0 | 1 | 2 => simpa [hAB, HTree.subtrees, eq_comm] using h
  | j + 3 => simp [hAB, HTree.subtrees] at h

theorem subtrees_hBadSum {j : Nat} {u : HTree} (h : hBadSum.subtrees[j]? = some u) :
    (j = 0 ∧ u = hBadSum) ∨ (j = 1 ∧ u = .leaf 0x61#8 1#32) ∨ (j = 2 ∧ u = .leaf 0x62#8 1#32) := by
  match j with
  | 0 | 1 | 2 => simpa [hBadSum, HTree.subtrees, eq_comm] using h
  | j + 3 => simp [hBadSum, HTree.subtrees] at h

/-- For each clause of R531 a state and a tree that meet its hypotheses, and the report (STATUS 0x6342 is
SERIALIZATION_FORMAT of DES_RUN): (1) COUNT 512. -/
theorem witness_violation_header :
    511 < (((image [0x48541200#32]).serWord 0).extractLsb' 0 10).toNat ∧
    report (exec .desRun (image [0x48541200#32])) = some (0x6342#32, 0#32, 0#32) := by decide

/-- The first two records of `hAB` and their sums: what the clauses (2) to (5) ask at p = 2. -/
theorem witness_violation_prefix :
    hAB.leavesGoodBefore 2 ∧ hAB.leavesGoodBefore 3 ∧ 2 < hAB.size ∧
    (∀ (j : Nat) (u : HTree), hAB.subtrees[j]? = some u → u.sumExact = true) ∧
    (∀ ws : List Word, ws.take 5 = [0x48541003#32, 0xA3000000#32, 2#32, 0xA4000061#32, 1#32] →
      ∀ (j : Nat) (u : HTree), j < 2 → hAB.subtrees[j]? = some u →
        ws[1 + 2 * j]? = some u.header ∧ ws[2 + 2 * j]? = some u.freq) := by
  refine ⟨⟨?_, by decide⟩, ⟨?_, by decide⟩, by decide, ?_, ?_⟩
  · intro sym f h; simp [hAB, HTree.subtrees] at h; simp [h]
  · intro sym f h; simp [hAB, HTree.subtrees] at h; rcases h with h | h <;> simp [h]
  · intro j u h
    rcases subtrees_hAB h with ⟨-, rfl⟩ | ⟨-, rfl⟩ | ⟨-, rfl⟩ <;> decide
  · intro ws hw j u hj h
    have hget : ∀ i, i < 5 → ws[i]? = (ws.take 5)[i]? := fun i hi => by simp [hi]
    rcases subtrees_hAB h with ⟨rfl, rfl⟩ | ⟨rfl, rfl⟩ | ⟨rfl, -⟩
    · rw [hget _ (by decide), hget _ (by decide), hw]; decide
    · rw [hget _ (by decide), hget _ (by decide), hw]; decide
    · omega

/-- (2) a missing record at p = n = 2; (3) a bad header, (4) a zero frequency and (5) a repeated symbol at p = 2;
(7) a COUNT of 5 for three records. -/
theorem witness_violations :
    report (exec .desRun (image [0x48541002#32, 0xA3000000#32, 2#32, 0xA4000061#32, 1#32])) =
      some (0x6342#32, 5#32, 0#32) ∧
    report (exec .desRun (image [0x48541003#32, 0xA3000000#32, 2#32, 0xA4000061#32, 1#32, 0xA7000062#32,
      1#32])) = some (0x6342#32, 5#32, 0#32) ∧
    report (exec .desRun (image [0x48541003#32, 0xA3000000#32, 2#32, 0xA4000061#32, 1#32, 0xA4000061#32,
      0#32])) = some (0x6342#32, 6#32, 0#32) ∧
    report (exec .desRun (image [0x48541003#32, 0xA3000000#32, 2#32, 0xA4000061#32, 1#32, 0xA4000061#32,
      1#32])) = some (0x6342#32, 5#32, 0#32) ∧
    report (exec .desRun (image [0x48541005#32, 0xA3000000#32, 2#32, 0xA4000061#32, 1#32, 0xA4000062#32,
      1#32])) = some (0x6342#32, 7#32, 0#32) ∧
    0x61#8 ∈ hAB.symbolsBefore 2 ∧
    ([0xA7000062#32, 0xA3000001#32].all fun hw => hw != 0xA3000000#32 &&
      (List.range 256).all fun n => hw != 0xA4000000#32 ||| zext32 (BitVec.ofNat 8 n)) = true := by
  decide +kernel

/-- (6) the root's sum, found inexact when record 2 has been read; the exact sum loads. -/
theorem witness_violation_sum :
    hBadSum.subtrees[0]? = some hBadSum ∧ 0 + hBadSum.size = 3 ∧ hBadSum.sumExact = false ∧
    (∀ (k : Nat) (v : HTree), hBadSum.subtrees[k]? = some v → k + v.size < 3 ∨ (k + v.size = 3 ∧ 0 < k) →
      v.sumExact = true) ∧ hBadSum.leavesGoodBefore 3 ∧
    report (exec .desRun (image [0x48541003#32, 0xA3000000#32, 3#32, 0xA4000061#32, 1#32, 0xA4000062#32,
      1#32])) = some (0x6342#32, 2#32, 0#32) ∧
    report (exec .desRun (image [0x48541003#32, 0xA3000000#32, 2#32, 0xA4000061#32, 1#32, 0xA4000062#32,
      1#32])) = some (0x6300#32, 3#32, 2#32) := by
  refine ⟨rfl, rfl, rfl, ?_, ⟨?_, by decide⟩, by decide, by decide⟩
  · intro k v h hk
    rcases subtrees_hBadSum h with ⟨rfl, rfl⟩ | ⟨-, rfl⟩ | ⟨-, rfl⟩
    · exact absurd hk (by decide)
    · rfl
    · rfl
  · intro sym f h; simp [hBadSum, HTree.subtrees] at h; rcases h with h | h <;> simp [h]

theorem witness_ImageRoundTrip : ∃ t, exec .desRun { State.reset with serbuf := zImage } = .next t ∧
    t.lastErr = .ok := ⟨_, rfl, by decide⟩

theorem witness_Invariant : Inv ab ∧
    (∃ t, step { ab with bus := [.reset] } = .next t) ∧
    Inv { ab with bus := [.reset] } :=
  ⟨ab_Inv, ⟨_, rfl⟩, ⟨ab_Inv.params, ab_Inv.idle, ab_Inv.freq, ⟨ab_Inv.tree.1, fun _ =>
    ⟨ab_TreeLaw.stored, ab_TreeLaw.counts, ab_TreeLaw.leavesCounted, ab_TreeLaw.rootInside,
      ab_TreeLaw.reachedOnce, ab_TreeLaw.lawful, ab_TreeLaw.symbolsDistinct⟩⟩, ab_Inv.decoder,
    ab_Inv.codes, ab_Inv.buffers⟩⟩

end Tests
end Sys2Proof
end

namespace Sys2Proof
namespace Machine

/-! ### What a command can do

`exec_cases` says it once for all commands, and later proofs about `exec` cite it. -/

/-- The state `u` that a successful command `i` makes of `s` before it reports its end, and the guards it has
passed. -/
def Effect (i : Instr) (s u : State) : Prop :=
  match i with
  | .nop | .freqRead _ | .nodeRead _ | .codeRead _ _ | .decEnd => u = s
  | .softReset => u = resetRegisters s
  | .errClear => u = { s with errSticky := false }
  | .freqClear => u = { s with freq := Vector.replicate 256 0#32, total := 0#32 }
  | .freqCount sym =>
      s.total.toNat + 1 ≤ Config.freqMax ∧
        u = { s.setFreq sym (s.freqAt sym + 1#32) with total := s.total + 1#32 }
  | .freqWrite sym =>
      totalAfterWrite s sym s.dataIn ≤ Config.freqMax ∧
        u = { s.setFreq sym s.dataIn with total := word (totalAfterWrite s sym s.dataIn) }
  | .build =>
      leafNodes s ≠ [] ∧
        u = loadTree (builtArena (leafNodes s))
          (BitVec.ofNat 9 ((builtArena (leafNodes s)).length - 1)) (leafNodes s).length s
  | .treeClear => u = unloadTree s
  | .genCodes =>
      s.treeValid = true ∧
        ∃ h, s.tree = .ok h ∧ u = { s with code := codeTable h.codes, codesValid := true }
  | .encClear => u = { s with obuf := [], encBits := 0#32 }
  | .encSym sym =>
      s.obuf.length + (s.codeAt sym).length ≤ s.params.obufBits ∧
        u = { s with obuf := s.obuf ++ s.codeAt sym,
                     encBits := s.encBits + word (s.codeAt sym).length }
  | .outPop => u = { s with obuf := s.obuf.drop (min 32 s.obuf.length) }
  | .decReset => u = { s with decNode := s.root, decCount := 0#32 }
  | .decBit bit =>
      ∃ node out used, dstep s s.decNode bit 0 = .at node out used ∧ u = s.decoded node out
  | .decWord cnt =>
      s.treeValid = true ∧ ∃ node out used,
        dwalk s s.dataIn cnt.toNat 0 s.decNode = .at node out used ∧ u = s.decoded node out
  | .serBuild =>
      (s.treeValid = false ∧ u = { s with serbuf := s.serbuf.write 0 (imageHeader 0) }) ∨
      (s.treeValid = true ∧ ∃ h, s.tree = .ok h ∧
        u = { s with serbuf := s.serbuf.writeFrom 0 (imageHeader s.nnodes.toNat :: h.records) })
  | .serRead _ => u = s.drawn
  | .desWrite idx => idx.toNat ≤ 1022 ∧ u = { s with serbuf := s.serbuf.write idx.toNat s.dataIn }
  | .desRun =>
      (parseImage s.serWord = .ok none ∧ u = unloadTree s.drawn) ∨
      (∃ h, parseImage s.serWord = .ok (some h) ∧ u = loadTree (h.layout 0) 0#9 h.leaves s.drawn)

/-- A command ended in an error: the report says so and nothing else has changed, but for the draw that
DES_RUN has made (log 2). -/
def Fails (i : Instr) (s t : State) : Prop :=
  ∃ e info u, e ≠ .ok ∧ (u = s ∨ u = s.drawn) ∧ t = raise e info (opcodeOf i) u

/-- A command ended normally, after its effect. -/
def Succeeds (i : Instr) (s t : State) : Prop :=
  ∃ r0 r1 u, Effect i s u ∧ t = complete (opcodeOf i) r0 r1 u

theorem fails_of_raise {i : Instr} {s t : State} {e : ErrCode} {info : Word} (he : e ≠ .ok)
    (h : Host.Outcome.next (raise e info (opcodeOf i) s) = (.next t : Answer)) : Fails i s t :=
  ⟨e, info, s, he, .inl rfl, (Host.Outcome.next.inj h).symm⟩

theorem succeeds_of_complete {i : Instr} {s t u : State} {r0 r1 : Word} (hu : Effect i s u)
    (h : Host.Outcome.next (complete (opcodeOf i) r0 r1 u) = (.next t : Answer)) : Succeeds i s t :=
  ⟨r0, r1, u, hu, (Host.Outcome.next.inj h).symm⟩

/-- What a tree-walk step with a tree loaded can do: it finds no entry, meets a 1 bit in a degenerate tree,
emits a symbol and returns to ROOT, or moves to an internal node. -/
theorem dstep_cases {s : State} (hv : s.treeValid = true) (i : NodeIdx) (b : Bool) (t : Nat) :
    dstep s i b t = .broken .arenaEntryAbsent ∨
    dstep s i b t = .err .truncatedStream (badBitDetail t) ∨
    (∃ sym, dstep s i b t = .at s.root (some sym) (t + 1)) ∨
    (∃ c f l r, s.nodeAt c = some (.inner f l r) ∧ dstep s i b t = .at c none (t + 1)) := by
  rw [dstep, if_neg (by simp [hv])]
  rcases hroot : s.nodeAt s.root with _ | ⟨sym, f⟩ | ⟨f, l, r⟩
  · exact .inl rfl
  · cases b
    · exact .inr (.inr (.inl ⟨sym, rfl⟩))
    · exact .inr (.inl rfl)
  · rcases hi : s.nodeAt i with _ | e
    · exact .inl rfl
    · rcases hc : s.nodeAt (if b then e.right else e.left) with _ | ⟨sym, g⟩ | ⟨g, l', r'⟩ <;>
        simp only [hc]
      · exact .inl trivial
      · exact .inr (.inr (.inl ⟨sym, rfl⟩))
      · exact .inr (.inr (.inr ⟨_, g, l', r', hc, rfl⟩))

/-- With no tree every tree-walk step raises NO_TREE (R505). -/
theorem dstep_of_no_tree {s : State} (hv : s.treeValid = false) (i : NodeIdx) (b : Bool) (t : Nat) :
    dstep s i b t = .err .noTree 0#32 := by
  rw [dstep, if_pos hv]

theorem dstep_err_ne_ok {s : State} {i : NodeIdx} {b : Bool} {t : Nat} {e : ErrCode} {info : Word}
    (h : dstep s i b t = .err e info) : e ≠ .ok := by
  cases hv : s.treeValid with
  | false => rw [dstep_of_no_tree hv] at h; cases h; decide
  | true =>
    rcases dstep_cases hv i b t with hw | hw | ⟨_, hw⟩ | ⟨_, _, _, _, _, hw⟩ <;> rw [hw] at h <;>
      cases h
    decide

theorem dwalk_err_ne_ok {s : State} {d : Word} {left t : Nat} {i : NodeIdx} {e : ErrCode} {info : Word}
    (h : dwalk s d left t i = .err e info) : e ≠ .ok := by
  induction left generalizing t i with
  | zero => simp [dwalk] at h
  | succ left ih =>
    rw [dwalk] at h
    split at h
    · exact ih h
    · exact dstep_err_ne_ok h

/-- What a command can do: it fails, or it succeeds with its effect. -/
theorem exec_cases {i : Instr} {s t : State} (h : exec i s = .next t) :
    Fails i s t ∨ Succeeds i s t := by
  cases i with
  | nop | softReset | errClear | freqClear | freqRead | treeClear | codeRead | encClear | outPop
  | decReset => exact .inr (succeeds_of_complete rfl h)
  | freqCount sym =>
    simp only [exec, execFreqCount] at h
    split at h
    · exact .inl (fails_of_raise (by decide) h)
    · exact .inr (succeeds_of_complete ⟨by omega, rfl⟩ h)
  | freqWrite sym =>
    simp only [exec, execFreqWrite] at h
    split at h
    · exact .inl (fails_of_raise (by decide) h)
    · exact .inr (succeeds_of_complete ⟨by omega, rfl⟩ h)
  | build =>
    simp only [exec, execBuild] at h
    split at h
    · exact .inl (fails_of_raise (by decide) h)
    · split at h
      · cases h
      · rename_i leaf leaves hl
        exact .inr (succeeds_of_complete ⟨by simp [hl], by rw [hl]⟩ h)
  | nodeRead idx =>
    simp only [exec, execNodeRead] at h
    split at h
    · exact .inl (fails_of_raise (by decide) h)
    · split at h
      · cases h
      · exact .inr (succeeds_of_complete rfl h)
  | genCodes =>
    simp only [exec, execGenCodes] at h
    split at h
    · exact .inl (fails_of_raise (by decide) h)
    · rename_i hv
      split at h
      · cases h
      · rename_i tree ht
        exact .inr (succeeds_of_complete ⟨by simpa using hv, tree, ht, rfl⟩ h)
  | encSym sym =>
    simp only [exec, execEncSym] at h
    split at h
    · exact .inl (fails_of_raise (by decide) h)
    · split at h
      · exact .inl (fails_of_raise (by decide) h)
      · exact .inr (succeeds_of_complete ⟨by omega, rfl⟩ h)
  | decBit bit =>
    simp only [exec, execDecBit] at h
    split at h
    · cases h
    · rename_i hd
      exact .inl (fails_of_raise (dstep_err_ne_ok hd) h)
    · rename_i hd
      exact .inr (succeeds_of_complete ⟨_, _, _, hd, rfl⟩ h)
  | decWord cnt =>
    simp only [exec, execDecWord] at h
    split at h
    · exact .inl (fails_of_raise (by decide) h)
    · split at h
      · exact .inl (fails_of_raise (by decide) h)
      · rename_i hv
        split at h
        · cases h
        · rename_i hd
          exact .inl (fails_of_raise (dwalk_err_ne_ok hd) h)
        · rename_i hd
          exact .inr (succeeds_of_complete ⟨by simpa using hv, _, _, _, hd, rfl⟩ h)
  | decEnd =>
    simp only [exec, execDecEnd] at h
    split at h
    · exact .inl (fails_of_raise (by decide) h)
    · exact .inr (succeeds_of_complete rfl h)
  | serBuild =>
    simp only [exec, execSerBuild] at h
    split at h
    · rename_i hv
      exact .inr (succeeds_of_complete (.inl ⟨hv, rfl⟩) h)
    · rename_i hv
      split at h
      · cases h
      · rename_i tree ht
        exact .inr (succeeds_of_complete (.inr ⟨by simpa using hv, tree, ht, rfl⟩) h)
  | serRead idx =>
    simp only [exec, execSerRead] at h
    split at h
    · exact .inl (fails_of_raise (by decide) h)
    · exact .inr (succeeds_of_complete rfl h)
  | desWrite idx =>
    simp only [exec, execDesWrite] at h
    split at h
    · exact .inl (fails_of_raise (by decide) h)
    · exact .inr (succeeds_of_complete ⟨by omega, rfl⟩ h)
  | desRun =>
    simp only [exec, execDesRun] at h
    rcases hp : parseImage s.serWord with pos | _ | tree <;> rw [hp] at h
    · exact .inl ⟨_, _, _, by decide, .inr rfl, (Host.Outcome.next.inj h).symm⟩
    · exact .inr (succeeds_of_complete (.inl ⟨hp, rfl⟩) h)
    · exact .inr (succeeds_of_complete (.inr ⟨tree, hp, rfl⟩) h)

/-! ### The summary of R162 -/

/-- The rows of the summary table of R162, and what no command writes. -/
inductive Item where
  | errSticky | freq | tree | code | decoder | obuf | encBits | serbuf | dataIn | params | outside

/-- `t` has the item as `s` has it. -/
def Item.same (s t : State) : Item → Prop
  | .errSticky => t.errSticky = s.errSticky
  | .freq => t.freq = s.freq ∧ t.total = s.total
  | .tree => t.nodes = s.nodes ∧ t.root = s.root ∧ t.nnodes = s.nnodes ∧ t.nleaves = s.nleaves ∧
      t.treeValid = s.treeValid
  | .code => t.code = s.code ∧ t.codesValid = s.codesValid
  | .decoder => t.decNode = s.decNode ∧ t.decCount = s.decCount
  | .obuf => t.obuf = s.obuf
  | .encBits => t.encBits = s.encBits
  | .serbuf => t.serbuf = s.serbuf
  | .dataIn => t.dataIn = s.dataIn
  | .params => t.params = s.params
  | .outside => t.bus = s.bus ∧ t.readData = s.readData

/-- The commands that R162 lists for an item. -/
def Item.writtenBy (i : Instr) : Item → Prop
  | .errSticky => i = .errClear ∨ i = .softReset
  | .freq => i = .freqClear ∨ (∃ sym, i = .freqCount sym) ∨ (∃ sym, i = .freqWrite sym) ∨ i = .softReset
  | .tree => i = .build ∨ i = .treeClear ∨ i = .desRun ∨ i = .softReset
  | .code => i = .build ∨ i = .treeClear ∨ i = .desRun ∨ i = .genCodes ∨ i = .softReset
  | .decoder => i = .build ∨ i = .treeClear ∨ i = .desRun ∨ i = .decReset ∨ (∃ b, i = .decBit b) ∨
      (∃ cnt, i = .decWord cnt) ∨ i = .softReset
  | .obuf => i = .encClear ∨ (∃ sym, i = .encSym sym) ∨ i = .outPop ∨ i = .softReset
  | .encBits => i = .encClear ∨ (∃ sym, i = .encSym sym) ∨ i = .softReset
  | .serbuf => i = .serBuild ∨ ∃ idx, i = .desWrite idx
  | .dataIn => i = .softReset
  | .params | .outside => False

/-- An effect leaves every item alone that R162 does not list its command for. -/
theorem Effect.same {i : Instr} {s u : State} (h : Effect i s u) (item : Item)
    (hi : ¬ item.writtenBy i) : item.same s u := by
  cases i with
  | nop | freqRead | nodeRead | codeRead | decEnd =>
    obtain rfl := h
    cases item <;> simp [Item.same]
  | softReset | errClear | freqClear | treeClear | encClear | outPop | decReset | serRead =>
    obtain rfl := h
    cases item <;> simp_all [Item.same, Item.writtenBy]
  | freqCount | freqWrite | build | encSym | desWrite =>
    obtain ⟨-, rfl⟩ := h
    cases item <;> simp_all [Item.same, Item.writtenBy]
  | genCodes =>
    obtain ⟨-, tree, -, rfl⟩ := h
    cases item <;> simp_all [Item.same, Item.writtenBy]
  | decBit =>
    obtain ⟨node, out, used, -, rfl⟩ := h
    cases out <;> cases item <;> simp_all [Item.same, Item.writtenBy, State.decoded]
  | decWord =>
    obtain ⟨-, node, out, used, -, rfl⟩ := h
    cases out <;> cases item <;> simp_all [Item.same, Item.writtenBy, State.decoded]
  | serBuild =>
    obtain ⟨-, rfl⟩ | ⟨-, tree, -, rfl⟩ := h <;>
      cases item <;> simp_all [Item.same, Item.writtenBy]
  | desRun =>
    obtain ⟨-, rfl⟩ | ⟨tree, -, rfl⟩ := h <;>
      cases item <;> simp_all [Item.same, Item.writtenBy]

/-- A failing command leaves every item alone but ERR_STICKY. -/
theorem Fails.same {i : Instr} {s t : State} (h : Fails i s t) (item : Item)
    (hi : item ≠ .errSticky) : item.same s t := by
  obtain ⟨e, info, u, -, rfl | rfl, rfl⟩ := h <;> cases item <;> simp_all [Item.same]

/-- The end of a command touches no item. -/
theorem Item.same_complete (item : Item) (opc : Byte) (r0 r1 : Word) (s u : State) :
    item.same s (complete opc r0 r1 u) ↔ item.same s u := by
  cases item <;> exact Iff.rfl

/-- What a command changes, R162 lists it for. -/
theorem exec_writtenBy {i : Instr} {s t : State} (h : exec i s = .next t) {item : Item}
    (hitem : item ≠ .errSticky) (hchanged : ¬ item.same s t) : item.writtenBy i := by
  obtain hf | ⟨r0, r1, u, hu, rfl⟩ := exec_cases h
  · exact absurd (hf.same item hitem) hchanged
  · by_contra hi
    exact hchanged ((item.same_complete ..).2 (hu.same item hi))

/-- No command writes the parameters or what is outside the block. -/
theorem exec_keeps_outside {i : Instr} {s t : State} (h : exec i s = .next t) :
    t.params = s.params ∧ t.bus = s.bus ∧ t.readData = s.readData :=
  ⟨by_contra fun hne => exec_writtenBy h (item := .params) nofun hne,
    by_contra fun hne => exec_writtenBy h (item := .outside) nofun hne⟩

theorem exec_errSticky {i : Instr} {s t : State} (h : exec i s = .next t)
    (hne : t.errSticky ≠ s.errSticky) : t.lastErr ≠ .ok ∨ i = .errClear ∨ i = .softReset := by
  obtain ⟨e, info, u, he, -, rfl⟩ | ⟨r0, r1, u, hu, rfl⟩ := exec_cases h
  · exact .inl he
  · exact .inr (by_contra fun hi => hne (hu.same .errSticky hi))

/-- A failing command changes only its report and ERR_STICKY (and the model's draw counter, log 2). -/
theorem exec_of_lastErr_ne_ok {i : Instr} {s t : State} (h : exec i s = .next t)
    (ht : t.lastErr ≠ .ok) : ∃ d, t = { withReport t s with errSticky := true, draws := d } := by
  obtain ⟨e, info, u, -, hu, rfl⟩ | ⟨r0, r1, u, -, rfl⟩ := exec_cases h
  · obtain rfl | rfl := hu <;> exact ⟨_, rfl⟩
  · exact absurd rfl ht

/-- Settles O20, row by row of R162 from what `exec_cases` says each command can do. -/
theorem onlyListedCommandsWriteEachItem : Obligations.OnlyListedCommandsWriteEachItem := by
  intro i s t h
  have row (item : Item) (hitem : item ≠ .errSticky) := exec_writtenBy h hitem
  refine ⟨exec_errSticky h, exec_of_lastErr_ne_ok h, ?_, ?_, ?_, ?_, row .obuf nofun,
    row .encBits nofun, row .serbuf nofun, row .dataIn nofun, exec_keeps_outside h⟩
  · exact fun hne => row .freq nofun (by simp only [Item.same]; tauto)
  · exact fun hne => row .tree nofun (by simp only [Item.same]; tauto)
  · exact fun hne => row .code nofun (by simp only [Item.same]; tauto)
  · exact fun hne => row .decoder nofun (by simp only [Item.same]; tauto)

end Machine
end Sys2Proof

namespace Sys2Proof
namespace Machine

/-! ### The host's moves -/

/-- R204: the four lanes of a word give the word back. -/
@[simp] theorem wordOfLanes_lanesOf (w : Word) : wordOfLanes (lanesOf w) = some w := by
  simp only [wordOfLanes, lanesOf, Option.some.injEq]
  rw [BitVec.extractLsb'_append_extractLsb'_eq_extractLsb' (by rfl),
    BitVec.extractLsb'_append_extractLsb'_eq_extractLsb' (by rfl),
    BitVec.extractLsb'_append_extractLsb'_eq_extractLsb' (by rfl)]
  exact BitVec.extractLsb'_eq_self

theorem step_cons {s : State} {m : HostMove} {rest : List HostMove} (h : s.bus = m :: rest) :
    step s = hostMove m { s with bus := rest } := by
  rw [step, h]

/-- A 32-bit bus write at the address of a register reaches that register. -/
theorem hostMove_write_regOffset (s : State) (r : Reg) (w : Word) :
    hostMove (.write (s.params.base + regOffset r) (lanesOf w)) s = writeReg r w s := by
  have hl : (lanesOf w).length = 4 := rfl
  simp [hostMove, hl, touchesWindow_regOffset]

/-- A 32-bit bus read at the address of a register answers its lanes. -/
theorem hostMove_read_regOffset (s : State) (r : Reg) :
    hostMove (.read (s.params.base + regOffset r) 4) s =
      .next { s with readData := lanesOf (readReg r s) } := by
  simp [hostMove, touchesWindow_regOffset, readLanes]

/-- What a step can do: the host reads, writes DATA_IN or has no effect; the reset input comes; or a word is
submitted, which is illegal or runs its command. -/
theorem step_cases {s t : State} (h : step s = .next t) :
    (∃ bus readData dataIn, t = { s with bus := bus, readData := readData, dataIn := dataIn }) ∨
    (∃ rest, t = hardReset { s with bus := rest }) ∨
    (∃ rest w, t = raise .illegalCommand w (opcOf w) { s with bus := rest }) ∨
    (∃ rest i, exec i { s with bus := rest, busy := true } = .next t) := by
  rcases hbus : s.bus with _ | ⟨m, rest⟩
  · rw [step, hbus] at h
    cases h
    exact .inl ⟨_, _, _, rfl⟩
  rw [step_cons hbus] at h
  cases m with
  | read addr width =>
    simp only [hostMove] at h
    split at h
    · cases h
      exact .inl ⟨_, _, _, rfl⟩
    · cases h
  | reset =>
    cases h
    exact .inr (.inl ⟨rest, rfl⟩)
  | write addr lanes =>
    simp only [hostMove] at h
    split at h
    swap
    · cases h
    split at h
    swap
    · cases h
      exact .inl ⟨_, _, _, rfl⟩
    rename_i r w _ _
    cases r with
    | cmd =>
      simp only [writeReg, submit] at h
      split at h
      · cases h
      split at h
      · exact .inr (.inr (.inr ⟨rest, _, h⟩))
      · cases h
        exact .inr (.inr (.inl ⟨rest, w, rfl⟩))
    | dataIn =>
      simp only [writeReg] at h
      split at h <;> cases h
      exact .inl ⟨_, _, _, rfl⟩
    | _ =>
      cases h
      exact .inl ⟨_, _, _, rfl⟩

/-- Settles O6: the bus write reaches CMD, whose write submits the word. -/
theorem stepRunsTheSubmittedCommand : Obligations.StepRunsTheSubmittedCommand := by
  intro s w i rest hidle hw hbus
  calc step s = writeReg .cmd w { s with bus := rest } :=
        (step_cons hbus).trans (hostMove_write_regOffset { s with bus := rest } .cmd w)
    _ = submit w { s with bus := rest } := by simp [writeReg, hidle]
    _ = exec i { s with bus := rest, busy := true } := by rw [submit, hw]

/-- No register shows the moves still to come. -/
theorem readReg_bus (r : Reg) (s : State) (rest : List HostMove) :
    readReg r { s with bus := rest } = readReg r s := by
  cases r <;> rfl

/-- Settles O8: the bus read reaches the register, whose word does not depend on the moves to come. -/
theorem hostReadReturnsTheRegister : Obligations.HostReadReturnsTheRegister := by
  intro s r rest hbus
  rw [step_cons hbus, ← readReg_bus r s rest]
  exact hostMove_read_regOffset { s with bus := rest } r

/-- Settles O11, by the register written. -/
theorem hostWritesOfOtherRegisters : Obligations.HostWritesOfOtherRegisters := by
  intro s r v rest hidle hcmd hbus
  have hstep : step s = writeReg r v { s with bus := rest } :=
    (step_cons hbus).trans (hostMove_write_regOffset { s with bus := rest } r v)
  rw [hstep]
  cases r with
  | cmd => exact absurd rfl hcmd
  | dataIn => simp [writeReg, hidle]
  | _ => rfl

/-! ### The registers as words

A register's word is an append of its fields; the cast makes the widths of the parts add up in its type, as
the lemmas about `++` have them. -/

theorem paramsWord_eq_cast (s : State) : paramsWord s =
    BitVec.cast (rfl : 16 + 8 + 8 = 32) (BitVec.ofNat 16 s.params.obufBits ++ 32#8 ++ 8#8) := rfl

theorem statusWord_eq_cast (s : State) : statusWord s =
    BitVec.cast (rfl : 16 + 8 + 4 + 2 + 1 + 1 = 32) (0#16 ++ s.lastOpc ++ errNumber s.lastErr ++ 0#2 ++
      BitVec.ofBool s.errSticky ++ BitVec.ofBool s.busy) := rfl

theorem treeInfoWord_eq_cast (s : State) : treeInfoWord s =
    BitVec.cast (rfl : 3 + 1 + 1 + 9 + 9 + 9 = 32) (0#3 ++ BitVec.ofBool s.codesValid ++
      BitVec.ofBool s.treeValid ++ s.nleaves ++ s.nnodes ++ s.root) := rfl

theorem decInfoWord_eq_cast (s : State) : decInfoWord s =
    BitVec.cast (rfl : 22 + 1 + 9 = 32) (0#22 ++ BitVec.ofBool (s.decNode == s.root) ++ s.decNode) := rfl

theorem paramsWord_fields (s : State) :
    (paramsWord s).extractLsb' 0 8 = 8#8 ∧ (paramsWord s).extractLsb' 8 8 = 32#8 ∧
      (paramsWord s).extractLsb' 16 16 = BitVec.ofNat 16 s.params.obufBits := by
  simp (disch := decide) [-Nat.reduceAdd,
    paramsWord_eq_cast, BitVec.extractLsb'_append_eq_of_le,
    BitVec.extractLsb'_append_eq_of_add_le]

theorem statusWord_fields (s : State) :
    (statusWord s).getLsbD 0 = s.busy ∧ (statusWord s).getLsbD 1 = s.errSticky ∧
      (statusWord s).extractLsb' 2 2 = 0#2 ∧ (statusWord s).extractLsb' 4 4 = errNumber s.lastErr ∧
      (statusWord s).extractLsb' 8 8 = s.lastOpc ∧ (statusWord s).extractLsb' 16 16 = 0#16 := by
  simp (disch := decide) [-Nat.reduceAdd, -BitVec.getLsbD_eq_getElem,
    statusWord_eq_cast, BitVec.getLsbD_append, BitVec.extractLsb'_append_eq_of_le,
    BitVec.extractLsb'_append_eq_of_add_le]

theorem treeInfoWord_fields (s : State) :
    (treeInfoWord s).extractLsb' 0 9 = s.root ∧ (treeInfoWord s).extractLsb' 9 9 = s.nnodes ∧
      (treeInfoWord s).extractLsb' 18 9 = s.nleaves ∧ (treeInfoWord s).getLsbD 27 = s.treeValid ∧
      (treeInfoWord s).getLsbD 28 = s.codesValid ∧ (treeInfoWord s).extractLsb' 29 3 = 0#3 := by
  simp (disch := decide) [-Nat.reduceAdd, -BitVec.getLsbD_eq_getElem,
    treeInfoWord_eq_cast, BitVec.getLsbD_append, BitVec.extractLsb'_append_eq_of_le,
    BitVec.extractLsb'_append_eq_of_add_le]

theorem decInfoWord_fields (s : State) :
    (decInfoWord s).extractLsb' 0 9 = s.decNode ∧
      (decInfoWord s).getLsbD 9 = decide (s.decNode = s.root) ∧
      (decInfoWord s).extractLsb' 10 22 = 0#22 := by
  simp (disch := decide) [-Nat.reduceAdd, -BitVec.getLsbD_eq_getElem,
    decInfoWord_eq_cast, BitVec.getLsbD_append, BitVec.extractLsb'_append_eq_of_le,
    BitVec.extractLsb'_append_eq_of_add_le, beq_eq_decide]

/-- Settles O14: the one-field registers by definition, the packed ones by their fields. -/
theorem everyRegisterReadsItsState : Obligations.EveryRegisterReadsItsState := fun s =>
  ⟨⟨rfl, rfl, rfl, rfl, rfl, rfl, rfl, rfl, rfl, rfl, rfl, rfl⟩, paramsWord_fields s,
    statusWord_fields s, treeInfoWord_fields s, decInfoWord_fields s⟩

end Machine
end Sys2Proof

namespace Sys2Proof
namespace Machine

/-! ### Lawful arenas

The clauses of R144, said of the entries and the root alone: what BUILD and DES_RUN have to make, before
`loadTree` commits it. -/

/-- The clauses of R144 for the entries `arena` and the root `root`. -/
structure LawfulArena (arena : List Node) (root : NodeIdx) : Prop where
  length_add_one : arena.length + 1 = 2 * (arena.filter Node.isLeaf).length
  length_le : arena.length ≤ Config.maxNodes
  rootInside : root.toNat < arena.length
  reachedOnce : (reach arena Config.maxNodes root).Perm (List.range arena.length)
  lawful : ∀ e ∈ arena, nodeLawful arena e = true
  symbolsDistinct : ((arena.filter Node.isLeaf).map Node.symbol).Nodup

theorem toNat_ofNat_nine {n : Nat} (h : n ≤ Config.maxNodes) : (BitVec.ofNat 9 n).toNat = n := by
  have h : n ≤ 511 := h
  simp only [BitVec.toNat_ofNat]; omega

/-- The entries of a tree that has just been loaded are the ones loaded. -/
theorem arena_loadTree {arena : List Node} (h : arena.length ≤ Config.maxNodes) (root : NodeIdx) (k : Nat)
    (s : State) : (loadTree arena root k s).arena = arena := by
  simp only [State.arena, loadTree_nodes, loadTree_nnodes, toNat_ofNat_nine h, List.take_left]

/-- Loading a lawful arena with the number of its leaves gives a state that meets R144. -/
theorem LawfulArena.treeLaw_loadTree {arena : List Node} {root : NodeIdx} (h : LawfulArena arena root)
    {k : Nat} (hk : (arena.filter Node.isLeaf).length = k) (s : State) :
    TreeLaw (loadTree arena root k s) := by
  have hlen := h.length_add_one
  have hle := h.length_le
  have hnodes : (BitVec.ofNat 9 arena.length).toNat = arena.length := toNat_ofNat_nine hle
  have hleaves : (BitVec.ofNat 9 k).toNat = k := toNat_ofNat_nine (by omega)
  have harena := arena_loadTree hle root k s
  constructor
  case stored => simp [hnodes]
  case counts => simp only [loadTree_nnodes, loadTree_nleaves, hnodes, hleaves]; omega
  case leavesCounted => rw [harena, hk, loadTree_nleaves, hleaves]
  case rootInside => simpa [hnodes] using h.rootInside
  case reachedOnce => simpa [harena, hnodes] using h.reachedOnce
  case lawful => simpa only [harena] using h.lawful
  case symbolsDistinct => simpa only [harena] using h.symbolsDistinct

theorem reach_of_leaf {arena : List Node} {i : NodeIdx} {sym : Byte} {f : Word}
    (h : arena[i.toNat]? = some (.leaf sym f)) (d : Nat) : reach arena (d + 1) i = [i.toNat] := by
  rw [reach, h]

theorem reach_of_inner {arena : List Node} {i l r : NodeIdx} {f : Word}
    (h : arena[i.toNat]? = some (.inner f l r)) (d : Nat) :
    reach arena (d + 1) i = i.toNat :: (reach arena d l ++ reach arena d r) := by
  rw [reach, h]

/-! ### The arena of DES_RUN -/

theorem HTree.one_le_size (t : HTree) : 1 ≤ t.size := by
  cases t <;> simp [HTree.size]; omega

/-- The first entry of a tree's layout is its root's. -/
theorem HTree.layout_eq_cons (t : HTree) (i : Nat) :
    ∃ e es, t.layout i = e :: es ∧ e.freq = t.freq := by
  cases t with
  | leaf sym f => exact ⟨_, _, rfl, rfl⟩
  | node f l r => exact ⟨_, _, rfl, rfl⟩

/-- Where the layout of a tree stands in an arena, its root entry is the entry at its index. -/
theorem getElem?_of_layout_at {arena : List Node} {t : HTree} {i : Nat}
    (h : t.layout i <+: arena.drop i) : ∃ e, arena[i]? = some e ∧ e.freq = t.freq := by
  obtain ⟨e, es, hl, hf⟩ := t.layout_eq_cons i
  obtain ⟨rest, hrest⟩ := h
  refine ⟨e, ?_, hf⟩
  rw [← List.head?_drop, ← hrest, hl]
  rfl

/-- Where the layout of an internal node stands in an arena, so do its entry and the layouts of its subtrees. -/
theorem layout_node_at {arena : List Node} {f : Word} {l r : HTree} {i : Nat}
    (h : (HTree.node f l r).layout i <+: arena.drop i) :
    arena[i]? = some (.inner f (BitVec.ofNat 9 (i + 1)) (BitVec.ofNat 9 (i + 1 + l.size))) ∧
      l.layout (i + 1) <+: arena.drop (i + 1) ∧
      r.layout (i + 1 + l.size) <+: arena.drop (i + 1 + l.size) := by
  obtain ⟨rest, hrest⟩ := h
  have htail : arena.drop (i + 1) = l.layout (i + 1) ++ (r.layout (i + 1 + l.size) ++ rest) := by
    rw [← List.drop_drop, ← hrest]
    simp [HTree.layout]
  refine ⟨?_, ⟨_, htail.symm⟩, rest, ?_⟩
  · rw [← List.head?_drop, ← hrest]
    rfl
  · rw [← List.drop_drop, htail, List.drop_left' (l.layout_length _)]

/-- In its layout a tree's entries are reached in the order of their indices (R533). -/
theorem reach_layout {arena : List Node} {t : HTree} {i d : Nat} (h : t.layout i <+: arena.drop i)
    (hi : i + t.size ≤ Config.maxNodes) (hd : t.size ≤ d) :
    reach arena d (BitVec.ofNat 9 i) = List.range' i t.size := by
  induction t generalizing i d with
  | leaf sym f =>
    obtain ⟨d, rfl⟩ : ∃ d', d = d' + 1 := ⟨d - 1, by simp [HTree.size] at hd; omega⟩
    have hn : (BitVec.ofNat 9 i).toNat = i := toNat_ofNat_nine (by omega)
    obtain ⟨rest, hrest⟩ := h
    have he : arena[i]? = some (.leaf sym f) := by rw [← List.head?_drop, ← hrest]; rfl
    rw [reach_of_leaf (by rw [hn]; exact he), hn]
    rfl
  | node f l r ihl ihr =>
    simp only [HTree.size] at hi hd ⊢
    obtain ⟨d, rfl⟩ : ∃ d', d = d' + 1 := ⟨d - 1, by omega⟩
    have hn : (BitVec.ofNat 9 i).toNat = i := toNat_ofNat_nine (by omega)
    obtain ⟨he, hl, hr⟩ := layout_node_at h
    rw [reach_of_inner (by rw [hn]; exact he), hn, ihl hl (by omega) (by omega),
      ihr hr (by omega) (by omega), show 1 + l.size + r.size = (l.size + r.size) + 1 by omega,
      List.range'_succ, List.range'_append_1]

theorem nodeLawful_inner {arena : List Node} {f : Word} {l r : NodeIdx} {a b : Node}
    (hl : arena[l.toNat]? = some a) (hr : arena[r.toNat]? = some b) :
    nodeLawful arena (.inner f l r) = true ↔ f.toNat = a.freq.toNat + b.freq.toNat := by
  simp [nodeLawful, hl, hr]

/-- The entries of a tree with exact sums are lawful where its layout stands (R144 (c), (e)). -/
theorem nodeLawful_layout {arena : List Node} {t : HTree} {i : Nat} (h : t.layout i <+: arena.drop i)
    (hi : i + t.size ≤ Config.maxNodes) (hs : t.sumsExact = true) :
    ∀ e ∈ t.layout i, nodeLawful arena e = true := by
  induction t generalizing i with
  | leaf sym f => simpa [HTree.layout, nodeLawful, HTree.sumsExact] using hs
  | node f l r ihl ihr =>
    simp only [HTree.size] at hi
    simp only [HTree.sumsExact, Bool.and_eq_true, decide_eq_true_eq] at hs
    obtain ⟨⟨hsl, hsr⟩, hsum⟩ := hs
    obtain ⟨-, hl, hr⟩ := layout_node_at h
    have hrpos := r.one_le_size
    obtain ⟨a, ha, haf⟩ := getElem?_of_layout_at hl
    obtain ⟨b, hb, hbf⟩ := getElem?_of_layout_at hr
    simp only [HTree.layout, List.mem_cons, List.mem_append]
    rintro e (rfl | he | he)
    · rw [nodeLawful_inner (by rwa [toNat_ofNat_nine (by omega)]) (by rwa [toNat_ofNat_nine (by omega)]),
        haf, hbf, hsum]
    · exact ihl hl (by omega) hsl e he
    · exact ihr hr (by omega) hsr e he

/-- The leaves of a layout carry the tree's symbols in pre-order. -/
theorem symbols_of_layout (t : HTree) (i : Nat) :
    ((t.layout i).filter Node.isLeaf).map Node.symbol = t.symbols := by
  induction t generalizing i with
  | leaf sym f => rfl
  | node f l r ihl ihr => simp [HTree.layout, HTree.symbols, Node.isLeaf, ihl, ihr]

theorem HTree.symbols_length (t : HTree) : t.symbols.length = t.leaves := by
  induction t with
  | leaf sym f => rfl
  | node f l r ihl ihr => simp [HTree.symbols, HTree.leaves, ihl, ihr]

theorem leaves_of_layout (t : HTree) (i : Nat) :
    ((t.layout i).filter Node.isLeaf).length = t.leaves := by
  rw [← List.length_map (f := Node.symbol), symbols_of_layout, t.symbols_length]

/-- The layout of a tree with exact sums and distinct symbols meets R144 (R532, R533). -/
theorem lawfulArena_layout {t : HTree} (hsize : t.size ≤ Config.maxNodes) (hs : t.sumsExact = true)
    (hd : t.symbols.Nodup) : LawfulArena (t.layout 0) 0#9 := by
  have hpre : t.layout 0 <+: (t.layout 0).drop 0 := ⟨[], List.append_nil _⟩
  have hpos := t.one_le_size
  constructor
  case length_add_one => rw [t.layout_length, leaves_of_layout, t.size_add_one]
  case length_le => rwa [t.layout_length]
  case rootInside => rw [t.layout_length]; exact hpos
  case reachedOnce =>
    rw [show 0#9 = BitVec.ofNat 9 0 from rfl, reach_layout hpre (by omega) hsize, t.layout_length,
      List.range_eq_range']
  case lawful => exact nodeLawful_layout hpre (by omega) hs
  case symbolsDistinct => rwa [symbols_of_layout]

/-! ### The parse -/

/-- What a successful parse of one record has read: a leaf with a count and a fresh symbol, or an internal node
with its two subtrees and their exact sum (R529). -/
theorem parseNode_cases {img : Nat → Word} {endw depth p p' : Nat} {seen seen' : List Byte} {t : HTree}
    (h : parseNode img endw (depth + 1) p seen = .ok (t, p', seen')) :
    (∃ sym f, f ≠ 0#32 ∧ sym ∉ seen ∧ t = .leaf sym f ∧ p' = p + 1 ∧ seen' = sym :: seen) ∨
    (∃ f l r p1 seen1, parseNode img endw depth (p + 1) seen = .ok (l, p1, seen1) ∧
      parseNode img endw depth p1 seen1 = .ok (r, p', seen') ∧
      f.toNat = l.freq.toNat + r.freq.toNat ∧ t = .node f l r) := by
  simp only [parseNode] at h
  split at h
  · cases h
  split at h
  · cases h
  split at h
  · split at h
    · cases h
    split at h
    · cases h
    rename_i hf hsym
    cases h
    exact .inl ⟨_, _, hf, hsym, rfl, rfl, rfl⟩
  split at h
  · split at h
    · cases h
    split at h
    · cases h
    rename_i l p1 seen1 hl
    split at h
    · cases h
    rename_i r p2 seen2 hr
    split at h
    · cases h
    rename_i hsum
    cases h
    exact .inr ⟨_, l, r, p1, seen1, hl, hr, not_not.1 hsum, rfl⟩
  · cases h

/-- A parsed tree has as many nodes as records were read, exact sums, and symbols that are distinct from each
other and from those seen before (R531, R532). -/
theorem parseNode_ok {img : Nat → Word} {endw depth p p' : Nat} {seen seen' : List Byte} {t : HTree}
    (h : parseNode img endw depth p seen = .ok (t, p', seen')) :
    p' = p + t.size ∧ t.sumsExact = true ∧ seen'.Perm (t.symbols ++ seen) ∧
      (seen.Nodup → seen'.Nodup) := by
  induction depth generalizing p p' seen seen' t with
  | zero => cases h
  | succ depth ih =>
    obtain ⟨sym, f, hf, hsym, rfl, rfl, rfl⟩ | ⟨f, l, r, p1, seen1, hl, hr, hsum, rfl⟩ :=
      parseNode_cases h
    · have hpos : 1 ≤ f.toNat := Nat.pos_of_ne_zero fun h0 => hf (BitVec.eq_of_toNat_eq h0)
      exact ⟨rfl, by simpa [HTree.sumsExact] using hpos, .refl _, fun hn => List.nodup_cons.2 ⟨hsym, hn⟩⟩
    · obtain ⟨hpl, hsl, hml, hnl⟩ := ih hl
      obtain ⟨hpr, hsr, hmr, hnr⟩ := ih hr
      refine ⟨by simp only [HTree.size]; omega, by simp [HTree.sumsExact, hsl, hsr, hsum],
        hmr.trans ((hml.append_left _).trans ?_), hnr ∘ hnl⟩
      rw [← List.append_assoc]
      exact List.perm_append_comm.append_right _

/-- What DES_RUN accepts as a tree is small, with exact sums and distinct symbols (R532). -/
theorem parseImage_ok_some {img : Nat → Word} {t : HTree} (h : parseImage img = .ok (some t)) :
    t.size ≤ Config.maxNodes ∧ t.sumsExact = true ∧ t.symbols.Nodup := by
  simp only [parseImage] at h
  split at h
  · cases h
  rename_i hhead
  split at h
  · cases h
  split at h
  · cases h
  rename_i t' p seen hp
  split at h
  · cases h
  rename_i hn
  cases h
  obtain ⟨hsize, hs, hperm, hnodup⟩ := parseNode_ok hp
  refine ⟨?_, hs, ?_⟩
  · have hcount : headerCount (img 0) ≤ Config.maxNodes := by
      simp only [headerOk, Bool.not_eq_false, Bool.and_eq_true, decide_eq_true_eq] at hhead
      exact hhead.2
    omega
  · simpa using hperm.nodup_iff.1 (hnodup List.nodup_nil)

end Machine
end Sys2Proof

namespace Sys2Proof
namespace Machine

/-! ### The leaves of BUILD -/

/-- R442: one leaf for each symbol with a count, in ascending order of symbol. -/
theorem leafNodes_eq (s : State) :
    leafNodes s = (countedSymbols s).map fun sym => Node.leaf sym (s.freqAt sym) := by
  unfold leafNodes countedSymbols
  induction List.range 256 with
  | nil => rfl
  | cons n ns ih => by_cases h : s.freqAt (BitVec.ofNat 8 n) = 0#32 <;> simp [h, ih]

theorem countedSymbols_nodup (s : State) : (countedSymbols s).Nodup := by
  refine List.Nodup.filter _ (List.Nodup.map_on ?_ List.nodup_range)
  intro a ha b hb hab
  have := congrArg BitVec.toNat hab
  simp only [BitVec.toNat_ofNat, List.mem_range] at *
  omega

theorem symbols_of_leafNodes (s : State) : (leafNodes s).map Node.symbol = countedSymbols s := by
  rw [leafNodes_eq, List.map_map]
  exact List.map_id _

theorem leafNodes_length_le (s : State) : (leafNodes s).length ≤ 256 := by
  rw [leafNodes_eq, List.length_map]
  exact (List.length_filter_le ..).trans (by simp)

/-- A symbol without a count adds nothing to a sum of counts. -/
theorem sum_map_filter_freqAt (s : State) (syms : List Byte) :
    ((syms.filter fun sym => s.freqAt sym ≠ 0#32).map fun sym => (s.freqAt sym).toNat).sum =
      (syms.map fun sym => (s.freqAt sym).toNat).sum := by
  induction syms with
  | nil => rfl
  | cons sym syms ih => by_cases h : s.freqAt sym = 0#32 <;> simp_all

/-- The counts of the leaves add up to the sum of FREQ. -/
theorem sum_leafNodes (s : State) :
    ((leafNodes s).map fun e => e.freq.toNat).sum = (s.freq.toList.map BitVec.toNat).sum := by
  rw [leafNodes_eq, List.map_map]
  refine (sum_map_filter_freqAt s _).trans (congrArg List.sum ?_)
  refine List.ext_getElem (by simp) fun n h _ => ?_
  have hn : n < 256 := by simpa using h
  simp [State.freqAt, Nat.mod_eq_of_lt hn]

/-! ### The merges of BUILD -/

/-- Every internal entry comes after its children. -/
def ChildrenBefore (arena : List Node) : Prop :=
  ∀ i f l r, arena[i]? = some (Node.inner f l r) → l.toNat < i ∧ r.toNat < i

/-- Where every entry comes after its children, a walk that starts below its depth bound never meets it. -/
theorem reach_succ_of_lt {arena : List Node} (hc : ChildrenBefore arena)
    {d : Nat} {i : NodeIdx} (hi : i.toNat < d) : reach arena (d + 1) i = reach arena d i := by
  induction d generalizing i with
  | zero => omega
  | succ d ih =>
    rcases he : arena[i.toNat]? with _ | ⟨sym, f⟩ | ⟨f, l, r⟩
    · rw [reach, reach, he]
    · rw [reach_of_leaf he, reach_of_leaf he]
    · obtain ⟨hl, hr⟩ := hc _ _ _ _ he
      rw [reach_of_inner he, reach_of_inner he, ih (by omega), ih (by omega)]

/-- An entry added at the end is not reached from the entries before it. -/
theorem reach_append {arena : List Node} (hc : ChildrenBefore arena)
    (more : List Node) (d : Nat) {i : NodeIdx} (hi : i.toNat < arena.length) :
    reach (arena ++ more) d i = reach arena d i := by
  induction d generalizing i with
  | zero => rfl
  | succ d ih =>
    have happ : (arena ++ more)[i.toNat]? = arena[i.toNat]? := List.getElem?_append_left hi
    rcases he : arena[i.toNat]? with _ | ⟨sym, f⟩ | ⟨f, l, r⟩
    · exact absurd (List.getElem?_eq_none_iff.1 he) (by omega)
    · rw [reach_of_leaf he, reach_of_leaf (happ.trans he)]
    · obtain ⟨hl, hr⟩ := hc _ _ _ _ he
      rw [reach_of_inner he, reach_of_inner (happ.trans he), ih (by omega), ih (by omega)]

theorem getElem?_append_of_eq_some {arena : List Node} {i : Nat} {e : Node} (h : arena[i]? = some e)
    (more : List Node) : (arena ++ more)[i]? = some e := by
  rw [List.getElem?_append_left (List.getElem?_eq_some_iff.1 h).1, h]

/-- A lawful entry stays lawful when entries are added at the end. -/
theorem nodeLawful_append {arena : List Node} {e : Node} (h : nodeLawful arena e = true)
    (more : List Node) : nodeLawful (arena ++ more) e = true := by
  cases e with
  | leaf sym f => exact h
  | inner f l r =>
    rcases hl : arena[l.toNat]? with _ | a
    · simp [nodeLawful, hl] at h
    rcases hr : arena[r.toNat]? with _ | b
    · simp [nodeLawful, hr] at h
    rw [nodeLawful_inner (getElem?_append_of_eq_some hl more) (getElem?_append_of_eq_some hr more)]
    exact (nodeLawful_inner hl hr).1 h

/-- What holds of the arena and the working set between two merges of BUILD (R443): the trees under the
working set are disjoint, lawful, and hold all entries made so far. -/
structure MergeInv (leaves arena : List Node) (work : List Key) : Prop where
  length : arena.length + work.length = 2 * leaves.length
  leavesKept : arena.filter Node.isLeaf = leaves
  sum : (work.map Key.freq).sum = (leaves.map fun e => e.freq.toNat).sum
  keys : ∀ k ∈ work, ∃ e, arena[k.idx]? = some e ∧ e.freq.toNat = k.freq
  lawful : ∀ e ∈ arena, nodeLawful arena e = true
  childrenBefore : ChildrenBefore arena
  reached : (work.flatMap fun k => reach arena Config.maxNodes (BitVec.ofNat 9 k.idx)).Perm
    (List.range arena.length)
  last : ∃ k ∈ work, k.idx + 1 = arena.length

theorem MergeInv.perm {leaves arena : List Node} {work work' : List Key} (h : MergeInv leaves arena work)
    (hp : work.Perm work') : MergeInv leaves arena work' where
  length := by rw [← hp.length_eq]; exact h.length
  leavesKept := h.leavesKept
  sum := by rw [← (hp.map Key.freq).sum_eq]; exact h.sum
  keys := fun k hk => h.keys k (hp.mem_iff.2 hk)
  lawful := h.lawful
  childrenBefore := h.childrenBefore
  reached := (hp.flatMap_right _).symm.trans h.reached
  last := h.last.imp fun _ hk => ⟨hp.mem_iff.1 hk.1, hk.2⟩

/-- The node that merges the nodes of two keys (R443). -/
def mergedNode (a b : Key) : Node :=
  .inner (word (a.freq + b.freq)) (BitVec.ofNat 9 a.idx) (BitVec.ofNat 9 b.idx)

theorem MergeInv.idx_lt {leaves arena : List Node} {work : List Key} (h : MergeInv leaves arena work)
    {k : Key} (hk : k ∈ work) : k.idx < arena.length := by
  obtain ⟨e, he, -⟩ := h.keys k hk
  exact (List.getElem?_eq_some_iff.1 he).1

section
variable {arena : List Node} {a b : Key} (hc : ChildrenBefore arena)
  (hlen : arena.length < Config.maxNodes) (ha : a.idx < arena.length) (hb : b.idx < arena.length)
include hc hlen ha hb

theorem childrenBefore_merge : ChildrenBefore (arena ++ [mergedNode a b]) := by
  intro i f l r hi
  rcases Nat.lt_trichotomy i arena.length with hlt | rfl | hgt
  · rw [List.getElem?_append_left hlt] at hi
    exact hc i f l r hi
  · rw [List.getElem?_concat_length] at hi
    cases hi
    rw [toNat_ofNat_nine (by omega), toNat_ofNat_nine (by omega)]
    exact ⟨ha, hb⟩
  · rw [List.getElem?_eq_none (by simpa using hgt)] at hi
    cases hi

/-- The merged node reaches itself, then what its children reached before the merge. -/
theorem reach_mergedNode :
    reach (arena ++ [mergedNode a b]) Config.maxNodes (BitVec.ofNat 9 arena.length) =
      arena.length :: (reach arena Config.maxNodes (BitVec.ofNat 9 a.idx) ++
        reach arena Config.maxNodes (BitVec.ofNat 9 b.idx)) := by
  have hchild : ∀ k : Key, k.idx < arena.length →
      reach (arena ++ [mergedNode a b]) 510 (BitVec.ofNat 9 k.idx) =
        reach arena Config.maxNodes (BitVec.ofNat 9 k.idx) := by
    intro k hk
    have hn : (BitVec.ofNat 9 k.idx).toNat = k.idx := toNat_ofNat_nine (by omega)
    have hlen : arena.length < 511 := hlen
    rw [reach_append hc _ _ (by omega)]
    exact (reach_succ_of_lt hc (by omega)).symm
  have hn : (BitVec.ofNat 9 arena.length).toNat = arena.length := toNat_ofNat_nine (by omega)
  rw [reach_of_inner (by rw [hn, List.getElem?_concat_length, mergedNode]), hn, hchild a ha, hchild b hb]

end

/-- A merge keeps the invariant, as long as the arena is not full and the sum fits its word (R447). -/
theorem MergeInv.merge {leaves arena : List Node} {a b : Key} {work : List Key}
    (h : MergeInv leaves arena (a :: b :: work)) (hleaves : leaves.length ≤ 256)
    (hsum : (leaves.map fun e => e.freq.toNat).sum ≤ Config.freqMax) :
    MergeInv leaves (arena ++ [mergedNode a b]) (⟨a.freq + b.freq, arena.length⟩ :: work) := by
  have hlength := h.length
  simp only [List.length_cons] at hlength
  have hlen : arena.length < 511 := by omega
  have ha := h.idx_lt (k := a) (by simp)
  have hb := h.idx_lt (k := b) (by simp)
  have hword : (word (a.freq + b.freq)).toNat = a.freq + b.freq := by
    have := h.sum
    simp only [List.map_cons, List.sum_cons, Config.freqMax] at this hsum
    simp only [BitVec.toNat_ofNat]
    omega
  constructor
  case length => simp only [List.length_append, List.length_cons, List.length_nil]; omega
  case leavesKept => simp [h.leavesKept, mergedNode, Node.isLeaf]
  case sum => rw [← h.sum]; simp [Nat.add_assoc]
  case keys =>
    intro k hk
    obtain rfl | hk := List.mem_cons.1 hk
    · exact ⟨_, List.getElem?_concat_length, hword⟩
    · obtain ⟨e, he, hf⟩ := h.keys k (by simp [hk])
      exact ⟨e, getElem?_append_of_eq_some he _, hf⟩
  case lawful =>
    intro e he
    obtain he | he := List.mem_append.1 he
    · exact nodeLawful_append (h.lawful e he) _
    · obtain rfl := List.mem_singleton.1 he
      obtain ⟨ea, hea, hfa⟩ := h.keys a (by simp)
      obtain ⟨eb, heb, hfb⟩ := h.keys b (by simp)
      rw [mergedNode, nodeLawful_inner (a := ea) (b := eb), hword, hfa, hfb]
      · rw [toNat_ofNat_nine (show _ ≤ 511 by omega)]
        exact getElem?_append_of_eq_some hea _
      · rw [toNat_ofNat_nine (show _ ≤ 511 by omega)]
        exact getElem?_append_of_eq_some heb _
  case childrenBefore => exact childrenBefore_merge h.childrenBefore hlen ha hb
  case reached =>
    have hwork : ∀ k ∈ work, reach (arena ++ [mergedNode a b]) Config.maxNodes (BitVec.ofNat 9 k.idx) =
        reach arena Config.maxNodes (BitVec.ofNat 9 k.idx) := by
      intro k hk
      have hlt := h.idx_lt (k := k) (by simp [hk])
      exact reach_append h.childrenBefore _ _ (by rwa [toNat_ofNat_nine (show _ ≤ 511 by omega)])
    have hall := h.reached
    simp only [List.flatMap_cons] at hall ⊢
    rw [reach_mergedNode h.childrenBefore hlen ha hb, List.flatMap_congr hwork, List.length_append,
      List.length_singleton, List.range_succ, List.cons_append, List.append_assoc]
    exact (hall.cons _).trans (List.perm_append_singleton _ _).symm
  case last => exact ⟨_, List.mem_cons_self, by simp⟩

/-- While two nodes remain, the two least ones are merged (R443, R444). -/
theorem mergeAll_of_two {arena : List Node} {work work1 work2 : List Key} {a b : Key}
    (h1 : takeLeast work = some (a, work1)) (h2 : takeLeast work1 = some (b, work2)) (merges : Nat) :
    mergeAll (merges + 1) arena work =
      mergeAll merges (arena ++ [mergedNode a b]) (⟨a.freq + b.freq, arena.length⟩ :: work2) := by
  simp only [mergeAll, h1, h2, mergedNode]

theorem mergeAll_of_one {arena : List Node} {work : List Key} {a : Key}
    (h1 : takeLeast work = some (a, [])) (merges : Nat) : mergeAll (merges + 1) arena work = arena := by
  simp only [mergeAll, h1, takeLeast]

/-- The merges end with one node in the working set. -/
theorem MergeInv.mergeAll {leaves arena : List Node} {work : List Key} {merges : Nat}
    (h : MergeInv leaves arena work) (hleaves : leaves.length ≤ 256)
    (hsum : (leaves.map fun e => e.freq.toNat).sum ≤ Config.freqMax) (hm : work.length ≤ merges + 1) :
    ∃ k, MergeInv leaves (mergeAll merges arena work) [k] := by
  induction merges generalizing arena work with
  | zero =>
    obtain ⟨k, hk, -⟩ := h.last
    obtain ⟨k', rfl⟩ := List.length_eq_one_iff.1 (Nat.le_antisymm hm (List.length_pos_of_mem hk))
    exact ⟨k', h⟩
  | succ merges ih =>
    rcases h1 : takeLeast work with _ | ⟨a, work1⟩
    · obtain ⟨k, hk, -⟩ := h.last
      simp [takeLeast_eq_none_iff.1 h1] at hk
    · have hp1 := (takeLeast_spec h1).1
      rcases h2 : takeLeast work1 with _ | ⟨b, work2⟩
      · obtain rfl := takeLeast_eq_none_iff.1 h2
        exact ⟨a, by rw [mergeAll_of_one h1]; exact h.perm hp1⟩
      · have hp : work.Perm (a :: b :: work2) := hp1.trans ((takeLeast_spec h2).1.cons a)
        have hlen := hp.length_eq
        simp only [List.length_cons] at hlen
        rw [mergeAll_of_two h1 h2]
        exact ih ((h.perm hp).merge hleaves hsum) (by simp only [List.length_cons]; omega)

/-- The working set that BUILD starts with: the leaves with their own keys (R443, R444). -/
def leafKeys (leaves : List Node) : List Key := leaves.mapIdx fun i e => ⟨e.freq.toNat, i⟩

theorem map_freq_leafKeys (leaves : List Node) :
    (leafKeys leaves).map Key.freq = leaves.map fun e => e.freq.toNat :=
  List.ext_getElem (by simp [leafKeys]) fun i _ _ => by simp [leafKeys]

theorem map_idx_leafKeys (leaves : List Node) :
    (leafKeys leaves).map Key.idx = List.range leaves.length :=
  List.ext_getElem (by simp [leafKeys]) fun i _ _ => by simp [leafKeys]

/-- The leaves with their own keys are the start of the merges (R442, R443). -/
theorem mergeInv_leaves {leaves : List Node} (hne : leaves ≠ []) (hlen : leaves.length ≤ 256)
    (hl : ∀ e ∈ leaves, ∃ sym f, f ≠ 0#32 ∧ e = .leaf sym f) :
    MergeInv leaves leaves (leafKeys leaves) := by
  have hleaf : ∀ (i : Nat) (e : Node), leaves[i]? = some e → ∃ sym f, e = .leaf sym f := by
    intro i e he
    obtain ⟨sym, f, -, rfl⟩ := hl e (List.mem_of_getElem? he)
    exact ⟨sym, f, rfl⟩
  constructor
  case length => rw [leafKeys, List.length_mapIdx]; omega
  case leavesKept =>
    refine List.filter_eq_self.2 fun e he => ?_
    obtain ⟨sym, f, -, rfl⟩ := hl e he
    rfl
  case sum => rw [map_freq_leafKeys]
  case keys =>
    intro k hk
    obtain ⟨i, hi, rfl⟩ := List.mem_mapIdx.1 hk
    exact ⟨leaves[i], by simp, rfl⟩
  case lawful =>
    intro e he
    obtain ⟨sym, f, hf, rfl⟩ := hl e he
    have : 1 ≤ f.toNat := Nat.pos_of_ne_zero fun h0 => hf (BitVec.eq_of_toNat_eq h0)
    simpa [nodeLawful] using this
  case childrenBefore =>
    intro i f l r hi
    obtain ⟨sym, g, hsym⟩ := hleaf i _ hi
    cases hsym
  case reached =>
    have hreach : ∀ k ∈ leafKeys leaves,
        reach leaves Config.maxNodes (BitVec.ofNat 9 k.idx) = [k.idx] := by
      intro k hk
      obtain ⟨i, hi, rfl⟩ := List.mem_mapIdx.1 hk
      have hn : (BitVec.ofNat 9 i).toNat = i := toNat_ofNat_nine (show i ≤ 511 by omega)
      obtain ⟨sym, f, he⟩ := hleaf i _ (List.getElem?_eq_getElem hi)
      rw [reach_of_leaf (sym := sym) (f := f) (by rw [hn, List.getElem?_eq_getElem hi, he]), hn]
    rw [List.flatMap_congr hreach, ← List.map_eq_flatMap, map_idx_leafKeys]
  case last =>
    have hpos := List.length_pos_iff.2 hne
    exact ⟨_, List.mem_mapIdx.2 ⟨leaves.length - 1, by omega, rfl⟩, by simp; omega⟩

/-- The merges of BUILD end with its root, the last entry, as the one node of the working set. -/
theorem mergeInv_built {s : State} (hf : FreqLaw s) (hne : leafNodes s ≠ []) :
    ∃ k, MergeInv (leafNodes s) (builtArena (leafNodes s)) [k] ∧
      k.idx + 1 = (builtArena (leafNodes s)).length := by
  have hleaf : ∀ e ∈ leafNodes s, ∃ sym f, f ≠ 0#32 ∧ e = .leaf sym f := by
    intro e he
    rw [leafNodes_eq] at he
    obtain ⟨sym, hsym, rfl⟩ := List.mem_map.1 he
    exact ⟨sym, s.freqAt sym, by simpa using (List.mem_filter.1 hsym).2, rfl⟩
  have hsum : ((leafNodes s).map fun e => e.freq.toNat).sum ≤ Config.freqMax := by
    rw [sum_leafNodes, ← hf]
    exact Nat.le_of_lt_succ s.total.isLt
  have hlen := leafNodes_length_le s
  obtain ⟨k, hk⟩ := (mergeInv_leaves hne hlen hleaf).mergeAll (merges := (leafNodes s).length) hlen
    hsum (by simp [leafKeys])
  obtain ⟨k', hk', hlast⟩ := hk.last
  obtain rfl := List.mem_singleton.1 hk'
  exact ⟨k', hk, hlast⟩

theorem leaves_of_built {s : State} (hf : FreqLaw s) (hne : leafNodes s ≠ []) :
    (builtArena (leafNodes s)).filter Node.isLeaf = leafNodes s := by
  obtain ⟨k, hk, -⟩ := mergeInv_built hf hne
  exact hk.leavesKept

/-- The arena that BUILD makes of the counted symbols meets R144, with its last entry as the root (R449). -/
theorem lawfulArena_built {s : State} (hf : FreqLaw s) (hne : leafNodes s ≠ []) :
    LawfulArena (builtArena (leafNodes s))
      (BitVec.ofNat 9 ((builtArena (leafNodes s)).length - 1)) := by
  obtain ⟨k, hk, hlast⟩ := mergeInv_built hf hne
  have hlength := hk.length
  simp only [List.length_singleton] at hlength
  have hle := leafNodes_length_le s
  rw [← hlast, Nat.add_sub_cancel]
  constructor
  case length_add_one => rw [hk.leavesKept]; exact hlength
  case length_le => exact show _ ≤ 511 by omega
  case rootInside => rw [toNat_ofNat_nine (show _ ≤ 511 by omega)]; omega
  case reachedOnce => simpa using hk.reached
  case lawful => exact hk.lawful
  case symbolsDistinct => rw [hk.leavesKept, symbols_of_leafNodes]; exact countedSymbols_nodup s

end Machine
end Sys2Proof

namespace Sys2Proof
namespace Machine

/-! ### What every step keeps

A law of the tables and of the tree does not see the report, the host's moves or DATA_IN, so it is kept by every
step once the reset input and the effect of every command keep it. -/

/-- `t` has the tables, the tree, the buffers and the parameters as `s` has them. -/
def SameTables (s t : State) : Prop :=
  ∀ item : Item, item ≠ .errSticky → item ≠ .dataIn → item ≠ .outside → item.same s t

section
variable {P : State → Prop} (hsame : ∀ s t, SameTables s t → P s → P t)
  (heffect : ∀ i s u, P s → Effect i s u → P u)
include hsame heffect

theorem exec_keeps {i : Instr} {s t : State} (hs : P s) (h : exec i s = .next t) : P t := by
  obtain hf | ⟨r0, r1, u, hu, rfl⟩ := exec_cases h
  · exact hsame s t (fun item hitem _ _ => hf.same item hitem) hs
  · refine hsame u _ (fun item _ _ _ => (item.same_complete ..).2 ?_) (heffect i s u hs hu)
    cases item <;> simp [Item.same]

theorem step_keeps (hreset : ∀ s, P s → P (hardReset s)) {s t : State} (hs : P s)
    (h : step s = .next t) : P t := by
  have hmove : ∀ bus busy, P { s with bus := bus, busy := busy } := fun bus busy =>
    hsame s _ (fun item _ _ ho => by cases item <;> simp_all [Item.same]) hs
  obtain ⟨bus, readData, dataIn, rfl⟩ | ⟨rest, rfl⟩ | ⟨rest, w, rfl⟩ | ⟨rest, i, hi⟩ :=
    step_cases h
  · exact hsame s _ (fun item _ hd ho => by cases item <;> simp_all [Item.same]) hs
  · exact hreset _ (hmove rest s.busy)
  · exact hsame s _ (fun item he _ ho => by cases item <;> simp_all [Item.same]) hs
  · exact exec_keeps hsame heffect (hmove rest true) hi

end

/-! ### The frequency law -/

theorem FreqLaw.congr {s t : State} (h : FreqLaw s) (hf : Item.freq.same s t) : FreqLaw t := by
  obtain ⟨hfreq, htotal⟩ := hf
  rw [FreqLaw, hfreq, htotal]
  exact h

theorem freqLaw_of_cleared {t : State} (hf : t.freq = Vector.replicate 256 0#32) (ht : t.total = 0#32) :
    FreqLaw t := by
  rw [FreqLaw, hf, ht, Vector.toList_replicate, List.map_replicate, List.sum_replicate]
  rfl

/-- A new count and the total that follows from it exactly keep the law (R420, R426). -/
theorem freqLaw_setFreq {s : State} (h : FreqLaw s) (sym : Byte) (v total : Word)
    (ht : total.toNat + (s.freqAt sym).toNat = s.total.toNat + v.toNat) :
    FreqLaw { s.setFreq sym v with total := total } := by
  have hsum := sum_setFreq s sym v
  rw [FreqLaw] at h ⊢
  simp only at ht ⊢
  omega

theorem Effect.freqLaw {i : Instr} {s u : State} (h : Effect i s u) (hf : FreqLaw s) : FreqLaw u := by
  cases i with
  | freqClear | softReset =>
    obtain rfl := h
    exact freqLaw_of_cleared rfl rfl
  | freqCount sym =>
    obtain ⟨hle, rfl⟩ := h
    have hsym := freqAt_le_total hf sym
    refine freqLaw_setFreq hf sym _ _ ?_
    simp only [Config.freqMax, BitVec.toNat_add, BitVec.toNat_ofNat] at hle ⊢
    omega
  | freqWrite sym =>
    obtain ⟨hle, rfl⟩ := h
    have hsym := freqAt_le_total hf sym
    refine freqLaw_setFreq hf sym _ _ ?_
    simp only [Config.freqMax, totalAfterWrite, BitVec.toNat_ofNat] at hle ⊢
    omega
  | _ => exact hf.congr (h.same .freq (by simp [Item.writtenBy]))

/-! ### The tree law -/

theorem TreeLaw.congr {s t : State} (h : TreeLaw s) (ht : Item.tree.same s t) : TreeLaw t := by
  obtain ⟨hnodes, hroot, hnnodes, hnleaves, -⟩ := ht
  have harena : t.arena = s.arena := by rw [State.arena, State.arena, hnodes, hnnodes]
  constructor
  case stored => rw [hnodes, hnnodes]; exact h.stored
  case counts => rw [hnnodes, hnleaves]; exact h.counts
  case leavesCounted => rw [harena, hnleaves]; exact h.leavesCounted
  case rootInside => rw [hroot, hnnodes]; exact h.rootInside
  case reachedOnce => rw [harena, hroot, hnnodes]; exact h.reachedOnce
  case lawful => rw [harena]; exact h.lawful
  case symbolsDistinct => rw [harena]; exact h.symbolsDistinct

theorem TreeRegistersLaw.congr {s t : State} (h : TreeRegistersLaw s) (ht : Item.tree.same s t)
    (hc : s.treeValid = false → t.codesValid = s.codesValid) : TreeRegistersLaw t := by
  obtain ⟨hnone, htree⟩ := h
  have hsame := ht
  obtain ⟨-, hroot, hnnodes, hnleaves, hvalid⟩ := ht
  rw [TreeRegistersLaw, hvalid, hroot, hnnodes, hnleaves]
  exact ⟨fun hv => by rw [hc hv]; exact hnone hv, fun hv => (htree hv).congr hsame⟩

/-- A state with a lawful tree meets R143, and one in which the tree registers say there is none does. -/
theorem TreeLaw.treeRegistersLaw {t : State} (h : TreeLaw t) (hv : t.treeValid = true) :
    TreeRegistersLaw t :=
  ⟨fun hn => by simp [hv] at hn, fun _ => h⟩

theorem treeRegistersLaw_of_no_tree {t : State} (hv : t.treeValid = false)
    (h : t.root = Config.nil ∧ t.nnodes = 0#9 ∧ t.nleaves = 0#9 ∧ t.codesValid = false) :
    TreeRegistersLaw t :=
  ⟨fun _ => h, fun ht => by simp [hv] at ht⟩

/-- What BUILD loads meets R144 (R449). -/
theorem treeLaw_built {s : State} (hf : FreqLaw s) (hne : leafNodes s ≠ []) :
    TreeLaw (loadTree (builtArena (leafNodes s)) (BitVec.ofNat 9 ((builtArena (leafNodes s)).length - 1))
      (leafNodes s).length s) :=
  (lawfulArena_built hf hne).treeLaw_loadTree (congrArg List.length (leaves_of_built hf hne)) s

theorem lawfulArena_parsed {img : Nat → Word} {h : HTree} (hp : parseImage img = .ok (some h)) :
    LawfulArena (h.layout 0) 0#9 := by
  obtain ⟨hsize, hsums, hsymbols⟩ := parseImage_ok_some hp
  exact lawfulArena_layout hsize hsums hsymbols

/-- Every effect keeps R143: BUILD and DES_RUN load lawful trees, TREE_CLEAR, DES_RUN and SOFT_RESET leave none,
and no other command writes the tree. -/
theorem Effect.treeRegistersLaw {i : Instr} {s u : State} (h : Effect i s u) (hf : FreqLaw s)
    (ht : TreeRegistersLaw s) : TreeRegistersLaw u := by
  cases i with
  | build =>
    obtain ⟨hne, rfl⟩ := h
    exact (treeLaw_built hf hne).treeRegistersLaw rfl
  | desRun =>
    obtain ⟨-, rfl⟩ | ⟨tree, hp, rfl⟩ := h
    · exact treeRegistersLaw_of_no_tree rfl ⟨rfl, rfl, rfl, rfl⟩
    · exact ((lawfulArena_parsed hp).treeLaw_loadTree (leaves_of_layout tree 0) _).treeRegistersLaw rfl
  | treeClear | softReset =>
    obtain rfl := h
    exact treeRegistersLaw_of_no_tree rfl ⟨rfl, rfl, rfl, rfl⟩
  | genCodes =>
    have htree := h.same .tree (by simp [Item.writtenBy])
    obtain ⟨hv, -⟩ := h
    exact ht.congr htree fun hn => by simp [hv] at hn
  | _ =>
    exact ht.congr (h.same .tree (by simp [Item.writtenBy])) fun _ =>
      (h.same .code (by simp [Item.writtenBy])).2

/-! ### The Decoder's node -/

/-- ROOT or an internal node: where R150 lets the Decoder stand while a tree is loaded. -/
def AtRootOrInner (s : State) (i : NodeIdx) : Prop :=
  i = s.root ∨ ∃ f l r, s.nodeAt i = some (.inner f l r)

theorem DecoderLaw.congr {s t : State} (h : DecoderLaw s) (ht : Item.tree.same s t)
    (hd : t.decNode = s.decNode) : DecoderLaw t := by
  obtain ⟨hnodes, hroot, hnnodes, -, hvalid⟩ := ht
  have hat : t.nodeAt = s.nodeAt := by
    funext i
    rw [State.nodeAt, State.nodeAt, State.arena, State.arena, hnodes, hnnodes]
  rw [DecoderLaw, hvalid, hd, hroot, hat]
  exact h

/-- At ROOT the Decoder is where R150 wants it, ROOT being NIL when there is no tree. -/
theorem decoderLaw_at_root {t : State} (hd : t.decNode = t.root)
    (hn : t.treeValid = false → t.root = Config.nil) : DecoderLaw t :=
  ⟨fun hv => hd.trans (hn hv), fun _ => .inl hd⟩

theorem dstep_at {s : State} {i node : NodeIdx} {b : Bool} {t used : Nat} {out : Option Byte}
    (h : dstep s i b t = .at node out used) : s.treeValid = true ∧ AtRootOrInner s node := by
  cases hv : s.treeValid with
  | false => rw [dstep_of_no_tree hv] at h; cases h
  | true =>
    refine ⟨rfl, ?_⟩
    obtain hw | hw | ⟨sym, hw⟩ | ⟨c, f, l, r, hc, hw⟩ := dstep_cases hv i b t <;>
      rw [hw] at h <;> cases h
    · exact .inl rfl
    · exact .inr ⟨f, l, r, hc⟩

theorem dwalk_at {s : State} {d : Word} {left t used : Nat} {i node : NodeIdx} {out : Option Byte}
    (hi : AtRootOrInner s i) (h : dwalk s d left t i = .at node out used) : AtRootOrInner s node := by
  induction left generalizing t i with
  | zero => cases h; exact hi
  | succ left ih =>
    rw [dwalk] at h
    split at h
    · rename_i hstep
      exact ih (dstep_at hstep).2 h
    · exact (dstep_at h).2

/-- The Decoder's registers are all that a walk writes. -/
theorem decoderLaw_decoded {s : State} {node : NodeIdx} {out : Option Byte} (hv : s.treeValid = true)
    (h : AtRootOrInner s node) : DecoderLaw (s.decoded node out) := by
  cases out <;> exact ⟨fun hn => by simp [State.decoded, hv] at hn, fun _ => h⟩

/-- Every effect keeps R150: loading, unloading and DEC_RESET put the Decoder at ROOT, a walk leaves it at ROOT or
at an internal node, and no other command writes it. -/
theorem Effect.decoderLaw {i : Instr} {s u : State} (h : Effect i s u) (ht : TreeRegistersLaw s)
    (hd : DecoderLaw s) : DecoderLaw u := by
  cases i with
  | build =>
    obtain ⟨-, rfl⟩ := h
    exact decoderLaw_at_root rfl nofun
  | desRun =>
    obtain ⟨-, rfl⟩ | ⟨tree, -, rfl⟩ := h
    · exact decoderLaw_at_root rfl fun _ => rfl
    · exact decoderLaw_at_root rfl nofun
  | treeClear | softReset =>
    obtain rfl := h
    exact decoderLaw_at_root rfl fun _ => rfl
  | decReset =>
    obtain rfl := h
    exact decoderLaw_at_root rfl fun hv => (ht.1 hv).1
  | decBit bit =>
    obtain ⟨node, out, used, hw, rfl⟩ := h
    obtain ⟨hv, hnode⟩ := dstep_at hw
    exact decoderLaw_decoded hv hnode
  | decWord cnt =>
    obtain ⟨hv, node, out, used, hw, rfl⟩ := h
    exact decoderLaw_decoded hv (dwalk_at (hd.2 hv) hw)
  | _ =>
    exact hd.congr (h.same .tree (by simp [Item.writtenBy])) (h.same .decoder (by simp [Item.writtenBy])).1

/-- Settles O58: the frequency law, the tree law and the Decoder's are kept together, by every effect. -/
theorem everyStepKeepsTheTreeLaw : Obligations.EveryStepKeepsTheTreeLaw := by
  intro s t hf ht hd h
  refine (step_keeps (P := fun s => FreqLaw s ∧ TreeRegistersLaw s ∧ DecoderLaw s) ?_ ?_ ?_
    ⟨hf, ht, hd⟩ h).2
  · intro s t hsame ⟨hf, ht, hd⟩
    have htree : Item.tree.same s t := hsame .tree nofun nofun nofun
    have hcode : Item.code.same s t := hsame .code nofun nofun nofun
    have hdec : Item.decoder.same s t := hsame .decoder nofun nofun nofun
    exact ⟨hf.congr (hsame .freq nofun nofun nofun), ht.congr htree fun _ => hcode.2, hd.congr htree hdec.1⟩
  · exact fun i s u ⟨hf, ht, hd⟩ h => ⟨h.freqLaw hf, h.treeRegistersLaw hf ht, h.decoderLaw ht hd⟩
  · exact fun s _ => ⟨freqLaw_of_cleared rfl rfl, treeRegistersLaw_of_no_tree rfl ⟨rfl, rfl, rfl, rfl⟩,
      decoderLaw_at_root rfl fun _ => rfl⟩

/-! ### The code table -/

theorem CodeLaw.congr {s t : State} (h : CodeLaw s) (ht : Item.tree.same s t) (hc : Item.code.same s t) :
    CodeLaw t := by
  obtain ⟨hnodes, hroot, hnnodes, -, hvalid⟩ := ht
  obtain ⟨hcode, hcodes⟩ := hc
  have htree : t.tree = s.tree := by
    rw [State.tree, State.tree, State.arena, State.arena, hnodes, hnnodes, hroot]
  have hat : t.codeAt = s.codeAt := by funext sym; simp [State.codeAt, hcode]
  rw [CodeLaw, hcodes, hvalid, hcode, htree, hat]
  exact h

theorem codeLaw_of_cleared {t : State} (hv : t.codesValid = false)
    (hc : t.code = Vector.replicate 256 []) : CodeLaw t :=
  ⟨fun _ => codeAt_of_cleared hc, fun ht => by simp [hv] at ht⟩

/-- Every effect keeps R145: a command that writes the tree empties the code table, and GEN_CODES makes it of
the loaded tree. -/
theorem Effect.codeLaw {i : Instr} {s u : State} (h : Effect i s u) (hc : CodeLaw s) : CodeLaw u := by
  cases i with
  | build =>
    obtain ⟨-, rfl⟩ := h
    exact codeLaw_of_cleared rfl rfl
  | desRun => obtain ⟨-, rfl⟩ | ⟨tree, -, rfl⟩ := h <;> exact codeLaw_of_cleared rfl rfl
  | treeClear | softReset =>
    obtain rfl := h
    exact codeLaw_of_cleared rfl rfl
  | genCodes =>
    obtain ⟨hv, tree, htree, rfl⟩ := h
    exact ⟨nofun, fun _ => ⟨hv, tree, htree, rfl⟩⟩
  | _ => exact hc.congr (h.same .tree (by simp [Item.writtenBy])) (h.same .code (by simp [Item.writtenBy]))

/-! ### The buffers -/

/-- A tree read out of the arena has one node for each entry that the walk reaches. -/
theorem reach_length_of_readTree {arena : List Node} {d : Nat} {i : NodeIdx} {t : HTree}
    (h : readTree arena d i = .ok t) : (reach arena d i).length = t.size := by
  induction d generalizing i t with
  | zero => cases h
  | succ d ih =>
    obtain ⟨sym, f, he, rfl⟩ | ⟨f, l, r, tl, tr, he, hl, hr, rfl⟩ := readTree_cases h
    · rw [reach_of_leaf he]; rfl
    · rw [reach_of_inner he]
      simp only [List.length_cons, List.length_append, ih hl, ih hr, HTree.size]
      omega

/-- A lawful tree has NNODES nodes. -/
theorem TreeLaw.size_eq {s : State} (h : TreeLaw s) {t : HTree} (ht : s.tree = .ok t) :
    t.size = s.nnodes.toNat := by
  rw [← reach_length_of_readTree ht, h.reachedOnce.length_eq, List.length_range]

theorem Effect.obuf_length_le {i : Instr} {s u : State} (h : Effect i s u)
    (hb : s.obuf.length ≤ s.params.obufBits) : u.obuf.length ≤ u.params.obufBits := by
  have hparams : u.params = s.params := h.same .params (by simp [Item.writtenBy])
  rw [hparams]
  cases i with
  | encClear | softReset =>
    obtain rfl := h
    exact Nat.zero_le _
  | encSym sym =>
    obtain ⟨hle, rfl⟩ := h
    simpa using hle
  | outPop =>
    obtain rfl := h
    simp only [List.length_drop]
    omega
  | _ =>
    have hobuf : u.obuf = s.obuf := h.same .obuf (by simp [Item.writtenBy])
    rwa [hobuf]

/-- Every effect writes SERBUF inside its bounds: an image has at most 1 + 2 * 511 words. -/
theorem Effect.serbuf_wf {i : Instr} {s u : State} (h : Effect i s u) (ht : TreeRegistersLaw s)
    (hb : s.serbuf.wf = true) : u.serbuf.wf = true := by
  cases i with
  | serBuild =>
    obtain ⟨-, rfl⟩ | ⟨hv, tree, htree, rfl⟩ := h
    · exact Memory.wf_write hb (by decide) _
    · refine Memory.wf_writeFrom hb ?_
      have hsize := (ht.2 hv).size_eq htree
      have hlt := s.nnodes.isLt
      simp only [List.length_cons, tree.records_length, Config.serbufWords]
      omega
  | desWrite idx =>
    obtain ⟨hidx, rfl⟩ := h
    exact Memory.wf_write hb (Nat.lt_succ_of_le hidx) _
  | _ =>
    have hserbuf : u.serbuf = s.serbuf := h.same .serbuf (by simp [Item.writtenBy])
    rwa [hserbuf]

theorem nodes_loadTree_length_le {arena : List Node} {s : State} (ha : arena.length ≤ Config.maxNodes)
    (hs : s.nodes.length ≤ Config.maxNodes) (root : NodeIdx) (k : Nat) :
    (loadTree arena root k s).nodes.length ≤ Config.maxNodes := by
  simp only [loadTree_nodes, List.length_append, List.length_drop]
  omega

theorem Effect.nodes_length_le {i : Instr} {s u : State} (h : Effect i s u) (hf : FreqLaw s)
    (hb : s.nodes.length ≤ Config.maxNodes) : u.nodes.length ≤ Config.maxNodes := by
  cases i with
  | build =>
    obtain ⟨hne, rfl⟩ := h
    exact nodes_loadTree_length_le (lawfulArena_built hf hne).length_le hb _ _
  | desRun =>
    obtain ⟨-, rfl⟩ | ⟨tree, hp, rfl⟩ := h
    · exact hb
    · exact nodes_loadTree_length_le (s := s.drawn) (lawfulArena_parsed hp).length_le hb 0#9 tree.leaves
  | treeClear | softReset =>
    obtain rfl := h
    exact hb
  | _ =>
    have hnodes : u.nodes = s.nodes := (h.same .tree (by simp [Item.writtenBy])).1
    rwa [hnodes]

theorem Effect.bufferLaw {i : Instr} {s u : State} (h : Effect i s u) (hf : FreqLaw s)
    (ht : TreeRegistersLaw s) (hb : BufferLaw s) : BufferLaw u :=
  ⟨h.obuf_length_le hb.1, h.serbuf_wf ht hb.2.1, h.nodes_length_le hf hb.2.2⟩

/-! ### The whole invariant -/

/-- BUSY is 0 between steps (R140). -/
theorem step_keeps_idle {s t : State} (hs : s.busy = false) (h : step s = .next t) : t.busy = false := by
  obtain ⟨bus, readData, dataIn, rfl⟩ | ⟨rest, rfl⟩ | ⟨rest, w, rfl⟩ | ⟨rest, i, hi⟩ :=
    step_cases h
  · exact hs
  · rfl
  · rfl
  · obtain ⟨e, info, u, -, -, rfl⟩ | ⟨r0, r1, u, -, rfl⟩ := exec_cases hi <;> rfl

/-- The invariant without BUSY: what also holds while a command runs. -/
structure Laws (s : State) : Prop where
  params : s.params.wf = true
  freq : FreqLaw s
  tree : TreeRegistersLaw s
  decoder : DecoderLaw s
  codes : CodeLaw s
  buffers : BufferLaw s

theorem inv_iff (s : State) : Inv s ↔ s.busy = false ∧ Laws s :=
  ⟨fun h => ⟨h.idle, h.params, h.freq, h.tree, h.decoder, h.codes, h.buffers⟩,
    fun ⟨hi, h⟩ => ⟨h.params, hi, h.freq, h.tree, h.decoder, h.codes, h.buffers⟩⟩

theorem Laws.of_sameTables {s t : State} (hsame : SameTables s t) (h : Laws s) : Laws t := by
  have htree : Item.tree.same s t := hsame .tree nofun nofun nofun
  have hcode : Item.code.same s t := hsame .code nofun nofun nofun
  have hdec : Item.decoder.same s t := hsame .decoder nofun nofun nofun
  have hparams : t.params = s.params := hsame .params nofun nofun nofun
  have hobuf : t.obuf = s.obuf := hsame .obuf nofun nofun nofun
  have hserbuf : t.serbuf = s.serbuf := hsame .serbuf nofun nofun nofun
  exact {
    params := by rw [hparams]; exact h.params
    freq := h.freq.congr (hsame .freq nofun nofun nofun)
    tree := h.tree.congr htree fun _ => hcode.2
    decoder := h.decoder.congr htree hdec.1
    codes := h.codes.congr htree hcode
    buffers := by rw [BufferLaw, hobuf, hparams, hserbuf, htree.1]; exact h.buffers }

theorem Laws.of_effect {i : Instr} {s u : State} (h : Laws s) (hu : Effect i s u) : Laws u where
  params := by
    rw [show u.params = s.params from hu.same .params (by simp [Item.writtenBy])]
    exact h.params
  freq := hu.freqLaw h.freq
  tree := hu.treeRegistersLaw h.freq h.tree
  decoder := hu.decoderLaw h.tree h.decoder
  codes := hu.codeLaw h.codes
  buffers := hu.bufferLaw h.freq h.tree h.buffers

theorem Laws.hardReset {s : State} (h : Laws s) : Laws (hardReset s) where
  params := h.params
  freq := freqLaw_of_cleared rfl rfl
  tree := treeRegistersLaw_of_no_tree rfl ⟨rfl, rfl, rfl, rfl⟩
  decoder := decoderLaw_at_root rfl fun _ => rfl
  codes := codeLaw_of_cleared rfl rfl
  buffers := ⟨Nat.zero_le _, rfl, Nat.zero_le _⟩

/-- Settles O59: BUSY by the cases of a step, the laws because every effect keeps each of them. -/
theorem everyStepKeepsTheInvariant : Obligations.EveryStepKeepsTheInvariant := by
  intro s t hs h
  obtain ⟨hidle, hlaws⟩ := (inv_iff s).1 hs
  exact (inv_iff t).2 ⟨step_keeps_idle hidle h,
    step_keeps (fun _ _ hsame hl => hl.of_sameTables hsame) (fun _ _ _ hl hu => hl.of_effect hu)
      (fun _ hl => hl.hardReset) hlaws h⟩

end Machine
end Sys2Proof

namespace Sys2Proof
namespace Machine

/-! ### Packed bits -/

theorem bitsValue_lt (k : Nat) (bits : List Bool) : bitsValue k bits < 2 ^ k := by
  induction k, bits using bitsValue.induct with
  | case1 => simp [bitsValue]
  | case2 k ih => simp only [bitsValue, Nat.pow_succ]; omega
  | case3 k b bs ih => cases b <;> simp [bitsValue, Nat.pow_succ] <;> omega

/-- The first bit of the sequence is the most significant of the `k`, and bits it does not have are 0. -/
theorem testBit_bitsValue (k : Nat) (bits : List Bool) {t : Nat} (ht : t < k) :
    (bitsValue k bits).testBit t = bits[k - 1 - t]?.getD false := by
  induction k, bits using bitsValue.induct with
  | case1 => omega
  | case2 k ih =>
    rcases Nat.lt_succ_iff_lt_or_eq.1 ht with hlt | rfl
    · simpa [bitsValue] using ih hlt
    · simpa [bitsValue] using Nat.testBit_lt_two_pow (bitsValue_lt t [])
  | case3 k b bs ih =>
    rcases Nat.lt_succ_iff_lt_or_eq.1 ht with hlt | rfl
    · have hidx : k + 1 - 1 - t = k - 1 - t + 1 := by omega
      rw [hidx, List.getElem?_cons_succ, ← ih hlt]
      cases b <;> simp [bitsValue, Nat.testBit_two_pow_add_gt hlt]
    · have htop := Nat.testBit_lt_two_pow (bitsValue_lt t bs)
      cases b <;> simp [bitsValue, Nat.testBit_two_pow_add_eq, htop]

/-- R205: bit 31 of a packed word is the first of the sequence. -/
theorem getLsbD_packBits (bits : List Bool) {t : Nat} (ht : t < 32) :
    (packBits bits).getLsbD t = bits[31 - t]?.getD false := by
  simp [packBits, -BitVec.getLsbD_eq_getElem, BitVec.getLsbD_ofNat, ht, testBit_bitsValue 32 bits ht]

theorem unpackBits_packBits (bits : List Bool) (h : bits.length ≤ 32) :
    unpackBits (packBits bits) bits.length = bits := by
  refine List.ext_getElem (by simp [unpackBits]) fun t _ ht => ?_
  have hback : 31 - (31 - t) = t := by omega
  simp [unpackBits, -BitVec.getLsbD_eq_getElem,
    getLsbD_packBits bits (show 31 - t < 32 by omega), hback, ht]

theorem packBits_unused_bits (bits : List Bool) {t : Nat} (ht : t < 32 - bits.length) :
    (packBits bits).getLsbD t = false := by
  rw [getLsbD_packBits bits (by omega), List.getElem?_eq_none (by omega), Option.getD_none]

/-- R204: lane `j` of a word is its bits [8j+7:8j]. -/
theorem lanesOf_getElem? (w : Word) {j : Nat} (hj : j < 4) :
    (lanesOf w)[j]? = some (w.extractLsb' (8 * j) 8) := by
  match j, hj with
  | 0, _ | 1, _ | 2, _ | 3, _ => rfl

/-- Settles O5: lane by lane, and bit by bit of the packed word. -/
theorem bytesAndBitsStandInOrder : Obligations.BytesAndBitsStandInOrder :=
  ⟨fun w => ⟨wordOfLanes_lanesOf w, fun _ => lanesOf_getElem? w⟩,
    fun bits h => ⟨unpackBits_packBits bits h, fun _ => packBits_unused_bits bits⟩⟩

/-! ### Accesses of other forms -/

/-- R110: `regAt` finds a register at its own offset only. -/
theorem regAt_eq_some {n : Nat} {r : Reg} (h : regAt n = some r) : n = regOffset r := by
  unfold regAt at h
  split at h <;> cases h <;> rfl

theorem regOffset_aligned (r : Reg) : regOffset r % 4 = 0 := by cases r <;> rfl

/-- R201, R203: only an aligned 32-bit access from BASE on is an access to a register. -/
theorem wordAccess_eq_none {p : Params} {addr width : Nat}
    (h : ¬ (width = 4 ∧ p.base ≤ addr ∧ (addr - p.base) % 4 = 0)) : wordAccess p addr width = none := by
  refine Option.eq_none_iff_forall_ne_some.2 fun r hr => h ?_
  obtain ⟨⟨hwidth, hbase⟩, hreg⟩ := Option.ite_none_right_eq_some.1 hr
  refine ⟨hwidth, hbase, ?_⟩
  rw [regAt_eq_some hreg, regOffset_aligned]

/-- R203: a write that is no access to a register is ignored. -/
theorem hostMove_write_of_wordAccess_none {s : State} {addr : Nat} {lanes : List Byte}
    (htouch : touchesWindow s.params addr lanes.length = true)
    (hno : wordAccess s.params addr lanes.length = none) : hostMove (.write addr lanes) s = .next s := by
  simp [hostMove, htouch, hno]

/-- R203: a read that is no access to a register answers zeros. -/
theorem hostMove_read_of_wordAccess_none {s : State} {addr width : Nat}
    (htouch : touchesWindow s.params addr width = true) (hno : wordAccess s.params addr width = none) :
    hostMove (.read addr width) s = .next { s with readData := List.replicate width 0#8 } := by
  simp [hostMove, htouch, readLanes, hno]

/-- Settles O9: an access of another form is no access to a register. -/
theorem otherAccessFormsDoNothing : Obligations.OtherAccessFormsDoNothing := by
  rintro s addr _ lanes rest htouch hform rfl
  have hno := wordAccess_eq_none hform
  exact ⟨(step_cons rfl).trans
      (hostMove_write_of_wordAccess_none (s := { s with bus := rest }) htouch hno),
    (step_cons rfl).trans
      (hostMove_read_of_wordAccess_none (s := { s with bus := rest }) htouch hno)⟩

end Machine
end Sys2Proof

namespace Sys2Proof

/-! ### The operand fields

Every field of R302 stands in the low bits of IMM, so that IMM has no reserved bit set exactly when it is a
number below the power of two that its format's fields reach. -/

/-- The number of low IMM bits that hold operand fields (R302). -/
def fieldBits : Format → Nat
  | .N => 0
  | .S => 8
  | .B => 1
  | .C => 6
  | .I => 10
  | .SW => 11

theorem toNat_fieldmask (f : Format) : (fieldmask f).toNat = 2 ^ fieldBits f - 1 := by
  cases f <;> rfl

theorem and_not_eq_zero_iff {n : Nat} (x m : BitVec n) : x &&& ~~~ m = 0#n ↔ x &&& m = x := by
  simp [BitVec.eq_of_getElem_eq_iff]

/-- R302, R306: no reserved bit of the format is set. -/
theorem reserved_clear_iff (f : Format) (imm : BitVec 24) :
    imm &&& ~~~ fieldmask f = 0#24 ↔ imm.toNat < 2 ^ fieldBits f := by
  rw [and_not_eq_zero_iff, ← BitVec.toNat_inj, BitVec.toNat_and, toNat_fieldmask,
    Nat.and_two_pow_sub_one_eq_mod]
  exact ⟨fun h => h ▸ Nat.mod_lt _ (Nat.two_pow_pos _), Nat.mod_eq_of_lt⟩

theorem toNat_zero_append_lt (m : Nat) {n : Nat} (x : BitVec n) : (0#m ++ x).toNat < 2 ^ n := by
  simpa using x.isLt

/-- A number that fits the low field is that field. -/
theorem zero_append_extractLsb' {m n : Nat} {x : BitVec (m + n)} (h : x.toNat < 2 ^ n) :
    0#m ++ x.extractLsb' 0 n = x := by
  apply BitVec.eq_of_toNat_eq
  simpa using Nat.mod_eq_of_lt h

theorem bitField_append (bit : Bool) : bitField (0#23 ++ BitVec.ofBool bit) = bit := by
  cases bit <;> rfl

theorem ofBool_bitField (imm : BitVec 24) : BitVec.ofBool (bitField imm) = imm.extractLsb' 0 1 := by
  ext i hi
  simp [bitField, show i = 0 by omega]

/-- WRD and SYM stand side by side, as one field of 11 bits (R302). -/
theorem wrd_append_sym (wrd : BitVec 3) (sym : Byte) :
    0#13 ++ wrd ++ sym = (0#13 ++ (wrd ++ sym) : BitVec 24) :=
  BitVec.append_assoc

theorem wrdField_append_symField (imm : BitVec 24) :
    wrdField imm ++ symField imm = imm.extractLsb' 0 11 :=
  BitVec.extractLsb'_append_extractLsb'_eq_extractLsb' rfl

theorem symField_append (sym : Byte) (x : BitVec 16) : symField (x ++ sym) = sym :=
  BitVec.extractLsb'_append_eq_right

theorem wrdField_append (sym : Byte) (wrd : BitVec 3) (x : BitVec 13) :
    wrdField (x ++ wrd ++ sym) = wrd := by
  have h : wrdField (x ++ wrd ++ sym) = (x ++ wrd).extractLsb' 0 3 :=
    BitVec.extractLsb'_append_eq_of_le (by decide)
  exact h.trans BitVec.extractLsb'_append_eq_right

theorem cntField_append (cnt : BitVec 6) (x : BitVec 18) : cntField (x ++ cnt) = cnt :=
  BitVec.extractLsb'_append_eq_right

theorem idxField_append (idx : BitVec 10) (x : BitVec 14) : idxField (x ++ idx) = idx :=
  BitVec.extractLsb'_append_eq_right

/-! ### Commands and their words -/

/-- The format of a command (R304). -/
def Instr.format : Instr → Format
  | .nop | .softReset | .errClear | .freqClear | .build | .treeClear | .genCodes | .encClear
  | .outPop | .decReset | .decEnd | .serBuild | .desRun => .N
  | .freqCount _ | .freqWrite _ | .freqRead _ | .encSym _ => .S
  | .decBit _ => .B
  | .decWord _ => .C
  | .nodeRead _ | .serRead _ | .desWrite _ => .I
  | .codeRead _ _ => .SW

theorem formatOf_opcodeOf (i : Instr) : formatOf (opcodeOf i) = some i.format := by
  cases i <;> rfl

/-- R303: the immediate field of a command sets no reserved bit. -/
theorem toNat_immediateOf_lt (i : Instr) : (immediateOf i).toNat < 2 ^ fieldBits i.format := by
  cases i with
  | codeRead sym wrd =>
    rw [immediateOf, wrd_append_sym]
    exact toNat_zero_append_lt 13 (wrd ++ sym)
  | freqCount x | freqWrite x | freqRead x | encSym x | decWord x | nodeRead x | serRead x
  | desWrite x => exact toNat_zero_append_lt _ x
  | decBit bit => exact toNat_zero_append_lt _ (BitVec.ofBool bit)
  | _ => decide

/-- R303, R304: the opcode and the fields of a command name it. -/
theorem commandOf_immediateOf (i : Instr) : commandOf (opcodeOf i) (immediateOf i) = some i := by
  cases i with
  | freqCount | freqWrite | freqRead | encSym =>
    simp [commandOf, opcodeOf, immediateOf, symField_append]
  | codeRead => simp [commandOf, opcodeOf, immediateOf, symField_append, wrdField_append]
  | decBit => simp [commandOf, opcodeOf, immediateOf, bitField_append]
  | decWord => simp [commandOf, opcodeOf, immediateOf, cntField_append]
  | nodeRead | serRead | desWrite => simp [commandOf, opcodeOf, immediateOf, idxField_append]
  | _ => rfl

/-- An assigned opcode makes a command of every immediate field. -/
theorem exists_commandOf_opcodeOf (i : Instr) (imm : BitVec 24) :
    ∃ j, commandOf (opcodeOf i) imm = some j := by
  cases i <;> exact ⟨_, rfl⟩

/-- The opcode map and the encoder list the same opcodes. -/
theorem opcodeOf_of_commandOf {opc : Byte} {imm : BitVec 24} {i : Instr}
    (h : commandOf opc imm = some i) : opcodeOf i = opc := by
  unfold commandOf at h
  split at h <;> cases h <;> exact BitVec.eq_of_toNat_eq (Eq.symm ‹_›)


/-- An immediate field with no reserved bit set is that of the command it names. -/
theorem immediateOf_of_commandOf {opc : Byte} {imm : BitVec 24} {i : Instr}
    (h : commandOf opc imm = some i) (hfit : imm.toNat < 2 ^ fieldBits i.format) : immediateOf i = imm := by
  obtain rfl := opcodeOf_of_commandOf h
  cases i with
  | freqCount | freqWrite | freqRead | encSym =>
    cases h
    exact zero_append_extractLsb' (m := 16) hfit
  | nodeRead | serRead | desWrite =>
    cases h
    exact zero_append_extractLsb' (m := 14) hfit
  | decWord =>
    cases h
    exact zero_append_extractLsb' (m := 18) hfit
  | decBit =>
    cases h
    rw [immediateOf, ofBool_bitField]
    exact zero_append_extractLsb' (m := 23) hfit
  | codeRead =>
    cases h
    rw [immediateOf, wrd_append_sym, wrdField_append_symField]
    exact zero_append_extractLsb' (m := 13) hfit
  | _ => exact BitVec.eq_of_toNat_eq (Nat.lt_one_iff.1 hfit).symm

/-! ### The decoder -/

/-- A word is its opcode and its immediate field (R301). -/
theorem opcOf_append_immOf (w : Word) : opcOf w ++ immOf w = w :=
  (BitVec.extractLsb'_append_extractLsb'_eq_extractLsb' rfl).trans BitVec.extractLsb'_eq_self

/-- R305, R306: a word decodes when its opcode is in the map and no reserved bit of its format is set. -/
theorem decode_eq_ok_iff {w : Word} {i : Instr} : decode w = .ok i ↔
    commandOf (opcOf w) (immOf w) = some i ∧ (immOf w).toNat < 2 ^ fieldBits i.format := by
  constructor
  · intro h
    unfold decode at h
    split at h
    · rename_i f j hf hj
      rw [← opcodeOf_of_commandOf hj, formatOf_opcodeOf] at hf
      cases hf
      split at h <;> cases h
      exact ⟨hj, (reserved_clear_iff _ _).1 ‹_›⟩
    · cases h
  · rintro ⟨hcmd, hfit⟩
    have hf : formatOf (opcOf w) = some i.format := by
      rw [← opcodeOf_of_commandOf hcmd, formatOf_opcodeOf]
    simp only [decode, hf, hcmd, if_pos ((reserved_clear_iff _ _).2 hfit)]

/-- Settles O2: the fields of a command come back from its word, and a command's word is the one whose fields
name it. -/
theorem decodeAndEncodeAreInverse : Obligations.DecodeAndEncodeAreInverse := by
  refine ⟨fun i => decode_eq_ok_iff.2 ?_, fun w i h => ?_⟩
  · rw [encode, Laws.opcOf_append, Laws.immOf_append]
    exact ⟨commandOf_immediateOf i, toNat_immediateOf_lt i⟩
  · obtain ⟨hcmd, hfit⟩ := decode_eq_ok_iff.1 h
    rw [encode, opcodeOf_of_commandOf hcmd, immediateOf_of_commandOf hcmd hfit, opcOf_append_immOf]

/-! ### The opcode table -/

/-- The row of a command: its bits are fixed but for those of its operand fields (R308). -/
def rowOf (i : Instr) : TableRow := ⟨mnemonicOf i, 0xFF#8 ++ ~~~ fieldmask i.format, opcodeOf i ++ 0#24⟩

theorem rowOf_mem_tableRows (i : Instr) : rowOf i ∈ tableRows := by
  cases i <;> simp only [rowOf, mnemonicOf, opcodeOf, Instr.format] <;> decide

/-- The opcode table and the opcode map agree: each row is the row of the command that its opcode names. -/
theorem rowOf_commandOf {r : TableRow} (hr : r ∈ tableRows) :
    (commandOf (opcOf r.pattern) 0#24).map rowOf = some r := by
  revert r
  decide

theorem exists_eq_rowOf {r : TableRow} (hr : r ∈ tableRows) : ∃ i, r = rowOf i := by
  obtain ⟨i, -, hi⟩ := Option.map_eq_some_iff.1 (rowOf_commandOf hr)
  exact ⟨i, hi.symm⟩

/-- Two rows with one opcode are the same row. -/
theorem tableRows_opcode_inj {r r' : TableRow} (hr : r ∈ tableRows) (hr' : r' ∈ tableRows)
    (h : opcOf r.pattern = opcOf r'.pattern) : r = r' := by
  have := rowOf_commandOf hr
  rw [h, rowOf_commandOf hr'] at this
  exact (Option.some.inj this).symm

theorem opcOf_rowOf (i : Instr) : opcOf (rowOf i).pattern = opcodeOf i := Laws.opcOf_append _ _

/-- A row covers the words that have its opcode and no reserved bit set. -/
theorem covers_rowOf_iff (i : Instr) (w : Word) : (rowOf i).covers w = true ↔
    opcOf w = opcodeOf i ∧ (immOf w).toNat < 2 ^ fieldBits i.format := by
  have hand : w &&& (rowOf i).mask = opcOf w ++ (immOf w &&& ~~~ fieldmask i.format) := by
    conv_lhs => rw [← opcOf_append_immOf w]
    refine BitVec.and_append.trans ?_
    rw [show opcOf w &&& 0xFF#8 = opcOf w from BitVec.and_allOnes]
  rw [← reserved_clear_iff, TableRow.covers, beq_iff_eq, hand]
  constructor
  · intro h
    have hopc := congrArg opcOf h
    have himm := congrArg immOf h
    rw [rowOf, Laws.opcOf_append, Laws.opcOf_append] at hopc
    rw [rowOf, Laws.immOf_append, Laws.immOf_append] at himm
    exact ⟨hopc, himm⟩
  · rintro ⟨hopc, himm⟩
    rw [hopc, himm, rowOf]

theorem format_eq_of_opcodeOf_eq {i j : Instr} (h : opcodeOf i = opcodeOf j) : i.format = j.format :=
  Option.some.inj (by rw [← formatOf_opcodeOf, h, formatOf_opcodeOf])

/-- R308: the row of its command covers a word that decodes. -/
theorem covers_rowOf_of_decode {w : Word} {i : Instr} (h : decode w = .ok i) :
    (rowOf i).covers w = true := by
  obtain ⟨hcmd, hfit⟩ := decode_eq_ok_iff.1 h
  exact (covers_rowOf_iff i w).2 ⟨(opcodeOf_of_commandOf hcmd).symm, hfit⟩

/-- R308: a word that a row covers decodes. -/
theorem decode_of_covers_rowOf {w : Word} {i : Instr} (h : (rowOf i).covers w = true) :
    ∃ j, decode w = .ok j := by
  obtain ⟨hopc, hfit⟩ := (covers_rowOf_iff i w).1 h
  obtain ⟨j, hj⟩ := exists_commandOf_opcodeOf i (immOf w)
  have hformat := format_eq_of_opcodeOf_eq (opcodeOf_of_commandOf hj)
  exact ⟨j, decode_eq_ok_iff.2 ⟨hopc ▸ hj, hformat ▸ hfit⟩⟩

theorem opcOf_of_covers {r : TableRow} (hr : r ∈ tableRows) {w : Word} (h : r.covers w = true) :
    opcOf r.pattern = opcOf w := by
  obtain ⟨i, rfl⟩ := exists_eq_rowOf hr
  rw [opcOf_rowOf, ((covers_rowOf_iff i w).1 h).1]

/-- Settles O3: the rows of the table are the rows of the commands, and a row covers the words that have its
opcode and no reserved bit set, which are those that decode. -/
theorem decodeAgreesWithTheOpcodeTable : Obligations.DecodeAgreesWithTheOpcodeTable := by
  refine fun w => ⟨fun i h => ?_, fun r hr h => ?_, fun r hr r' hr' h h' => ?_⟩
  · exact ⟨decodeAndEncodeAreInverse.2 w i h, rowOf i, rowOf_mem_tableRows i,
      covers_rowOf_of_decode h, rfl⟩
  · obtain ⟨i, rfl⟩ := exists_eq_rowOf hr
    exact decode_of_covers_rowOf h
  · exact tableRows_opcode_inj hr hr' ((opcOf_of_covers hr h).trans (opcOf_of_covers hr' h').symm)

/-- Settles O1: the decoder computes on fixed words. -/
theorem decodingOfSpecWords : Obligations.DecodingOfSpecWords :=
  ⟨rfl, rfl, rfl, rfl, rfl, rfl, rfl, rfl⟩

end Sys2Proof

namespace Sys2Proof
namespace Machine

/-! ### Illegal words -/

/-- R305, R306: submitting a word that is no command raises ILLEGAL_COMMAND. -/
theorem submit_of_illegal {w : Word} (hw : ∀ i, decode w ≠ .ok i) (s : State) :
    submit w s = .next (raisedState .illegalCommand w (opcOf w) s) := by
  rcases hd : decode w with e | i
  · rw [submit, hd, raise_eq_raisedState]
  · exact absurd hd (hw i)

/-- A write of a word to CMD with BUSY = 0 submits it. -/
theorem step_cmdWrite {s : State} {w : Word} {rest : List HostMove} (hidle : s.busy = false)
    (hbus : s.bus = cmdWrite s.params w :: rest) : step s = submit w { s with bus := rest } :=
  calc step s = writeReg .cmd w { s with bus := rest } :=
        (step_cons hbus).trans (hostMove_write_regOffset { s with bus := rest } .cmd w)
    _ = submit w { s with bus := rest } := by simp [writeReg, hidle]

/-- The ranges of assigned opcodes (R304, R306). -/
theorem opcodeOf_assigned (i : Instr) :
    (opcodeOf i).toNat ≤ 0x02 ∨
    (0x10 ≤ (opcodeOf i).toNat ∧ (opcodeOf i).toNat ≤ 0x13) ∨
    (0x20 ≤ (opcodeOf i).toNat ∧ (opcodeOf i).toNat ≤ 0x22) ∨
    (0x30 ≤ (opcodeOf i).toNat ∧ (opcodeOf i).toNat ≤ 0x31) ∨
    (0x40 ≤ (opcodeOf i).toNat ∧ (opcodeOf i).toNat ≤ 0x42) ∨
    (0x50 ≤ (opcodeOf i).toNat ∧ (opcodeOf i).toNat ≤ 0x53) ∨
    (0x60 ≤ (opcodeOf i).toNat ∧ (opcodeOf i).toNat ≤ 0x63) := by
  cases i <;> simp [opcodeOf]

/-- Settles O4: a word that decodes has an assigned opcode, and the only row of its opcode covers it. -/
theorem illegalWordRaisesIllegalCommand : Obligations.IllegalWordRaisesIllegalCommand := by
  intro s w rest hidle hbus hillegal
  refine (step_cmdWrite hidle hbus).trans (submit_of_illegal (fun i h => ?_) _)
  have hcovers := covers_rowOf_of_decode h
  have hopc : opcodeOf i = opcOf w := ((covers_rowOf_iff i w).1 hcovers).1.symm
  have hassigned := opcodeOf_assigned i
  rw [hopc] at hassigned
  rcases hillegal with ho | ho | ho | ho | ho | ho | ho | ⟨r, hr, hrow, hfixed⟩
  case inr.inr.inr.inr.inr.inr.inr =>
    rw [tableRows_opcode_inj hr (rowOf_mem_tableRows i) (by rw [hrow, opcOf_rowOf, hopc])] at hfixed
    exact hfixed (beq_iff_eq.1 hcovers)
  all_goals omega

/-! ### The report of a command -/

/-- Settles O17: the report is that of `raise` or of `complete`, and no effect but those of ERR_CLEAR and
SOFT_RESET touches ERR_STICKY. -/
theorem everyCommandReportsItself : Obligations.EveryCommandReportsItself := by
  intro i s t h
  obtain ⟨e, info, u, he, hu, rfl⟩ | ⟨r0, r1, u, hu, rfl⟩ := exec_cases h
  · refine ⟨rfl, rfl, fun _ => rfl, fun hok => absurd hok he, ?_⟩
    rintro (rfl | rfl) <;> exact absurd (congrArg State.lastErr (Host.Outcome.next.inj h)).symm he
  · refine ⟨rfl, rfl, fun hne => absurd rfl hne, fun _ hclear hreset => ?_, ?_⟩
    · exact hu.same .errSticky fun hi => hi.elim hclear hreset
    · rintro (rfl | rfl) <;> obtain rfl := hu <;> rfl

end Machine
end Sys2Proof

namespace Sys2Proof
namespace Machine

/-! ### Commands and the host

A command does not read BUSY, the moves to come or the last read data, and it does not write the last two: what
it does of a state, it does of that state with any host. -/

/-- `s` with BUSY, the moves to come and the last read data as given. -/
@[simps]
def State.facing (s : State) (busy : Bool) (bus : List HostMove) (readData : List Byte) : State :=
  { s with busy := busy, bus := bus, readData := readData }

section
variable (s : State) (busy : Bool) (bus : List HostMove) (readData : List Byte)

@[simp] theorem complete_facing (opc : Byte) (r0 r1 : Word) :
    complete opc r0 r1 (s.facing busy bus readData) =
      (complete opc r0 r1 s).facing false bus readData := rfl

@[simp] theorem raise_facing (e : ErrCode) (info : Word) (opc : Byte) :
    raise e info opc (s.facing busy bus readData) = (raise e info opc s).facing false bus readData := rfl

@[simp] theorem decoded_facing (node : NodeIdx) (out : Option Byte) :
    (s.facing busy bus readData).decoded node out = (s.decoded node out).facing busy bus readData := by
  cases out <;> rfl

@[simp] theorem totalAfterWrite_facing (sym : Byte) (v : Word) :
    totalAfterWrite (s.facing busy bus readData) sym v = totalAfterWrite s sym v := rfl

@[simp] theorem codeAt_facing (sym : Byte) :
    (s.facing busy bus readData).codeAt sym = s.codeAt sym := rfl

@[simp] theorem leafNodes_facing : leafNodes (s.facing busy bus readData) = leafNodes s := rfl

@[simp] theorem arena_facing : (s.facing busy bus readData).arena = s.arena := rfl

@[simp] theorem tree_facing : (s.facing busy bus readData).tree = s.tree := rfl

@[simp] theorem dstep_facing (i : NodeIdx) (b : Bool) (t : Nat) :
    dstep (s.facing busy bus readData) i b t = dstep s i b t := rfl

@[simp] theorem dwalk_facing (d : Word) (left t : Nat) (i : NodeIdx) :
    dwalk (s.facing busy bus readData) d left t i = dwalk s d left t i := by
  induction left generalizing t i with
  | zero => rfl
  | succ left ih => simp only [dwalk, ih, dstep_facing]

theorem desRunResult_facing (p : Except Nat (Option HTree)) :
    desRunResult (s.facing busy bus readData) p = (desRunResult s p).facing false bus readData := by
  rcases p with pos | _ | tree <;> rfl

end

/-- A command that answers `t` of `s` answers `t` of `s` with any host, for that host. -/
theorem exec_facing {i : Instr} {s t : State} (h : exec i s = .next t) (busy : Bool) (bus : List HostMove)
    (readData : List Byte) :
    exec i (s.facing busy bus readData) = .next (t.facing false bus readData) := by
  cases i with
  | nop | softReset | errClear | freqClear | freqRead | treeClear | codeRead | encClear | outPop
  | decReset =>
    cases h
    rfl
  | freqCount | freqWrite | build | nodeRead | genCodes | encSym | decBit | decWord | decEnd | serBuild
  | serRead | desWrite =>
    simp only [exec, execFreqCount, execFreqWrite, execBuild, execNodeRead, execGenCodes, execEncSym,
      execDecBit, execDecWord, execDecEnd, execSerBuild, execSerRead, execDesWrite] at h ⊢
    repeat' split at h
    all_goals cases h <;> simp [*] <;> rfl
  | desRun =>
    cases h
    exact congrArg _ (desRunResult_facing s.drawn busy bus readData (parseImage s.serWord))

theorem facing_self {s : State} (hidle : s.busy = false) (hbus : s.bus = []) :
    s.facing false [] s.readData = s := by
  rw [← hidle, ← hbus]; rfl

theorem statusWord_facing {s : State} (hidle : s.busy = false) (bus : List HostMove)
    (readData : List Byte) : statusWord (s.facing false bus readData) = statusWord s := by
  rw [statusWord, statusWord, hidle]; rfl

/-- The state after a poll with no move left to come. -/
theorem facing_eq_polled {s : State} (hidle : s.busy = false) (hbus : s.bus = []) :
    s.facing false [] (lanesOf (statusWord s)) = polled s := by
  rw [← hidle, ← hbus]; rfl

/-! ### Runs of the host's moves -/

/-- `n` steps of the machine. -/
def runSteps (n : Nat) (s : State) : Answer := Host.Core.run Sys2Proof.core n s

theorem runSteps_zero (s : State) : runSteps 0 s = .next s := rfl

/-- A run begins with a step. -/
theorem core_run_succ {M : Host.Core} {s t : M.State} (h : M.step s = .next t) (n : Nat) :
    M.run (n + 1) s = M.run n t := by
  simp only [Host.Core.run, h]

theorem runSteps_succ {s t : State} (h : step s = .next t) (n : Nat) :
    runSteps (n + 1) s = runSteps n t :=
  core_run_succ (M := Sys2Proof.core) h n

section
variable {s t : State} (n : Nat) (rest : List HostMove) (readData : List Byte)

/-- `rd` (R309): one step. -/
theorem step_busRead (r : Reg) : step (s.facing false (busRead s.params r :: rest) readData) =
    .next (s.facing false rest (lanesOf (readReg r (s.facing false [] readData)))) := by
  rw [hostReadReturnsTheRegister (s.facing false (busRead s.params r :: rest) readData) r rest rfl,
    ← readReg_bus r _ []]
  rfl

/-- `poll` (R309): one read of STATUS (log 12). -/
theorem runSteps_poll (hidle : s.busy = false) :
    runSteps (n + 1) (s.facing false (pollMoves s.params ++ rest) readData) =
      runSteps n (s.facing false rest (lanesOf (statusWord s))) := by
  refine runSteps_succ ((step_busRead rest readData .status).trans ?_) n
  rw [readReg, statusWord_facing hidle]

/-- A command statement (R309): what the command leaves, then one poll. -/
theorem runSteps_command {i : Instr} (h : exec i s = .next t) :
    runSteps (n + 2) (s.facing false (commandMoves s.params i ++ rest) readData) =
      runSteps n (t.facing false rest (lanesOf (statusWord t))) := by
  have hstep : step (s.facing false (commandMoves s.params i ++ rest) readData) =
      .next (t.facing false (pollMoves s.params ++ rest) readData) :=
    (stepRunsTheSubmittedCommand _ (encode i) i _ rfl (decodeAndEncodeAreInverse.1 i) rfl).trans
      (exec_facing h true _ readData)
  rw [runSteps_succ hstep, ← (exec_keeps_outside h).1]
  exact runSteps_poll n rest readData (everyCommandReportsItself i s t h).1

/-- `wr DATA_IN` (R309, R123). -/
theorem runSteps_dataIn (v : Word) :
    runSteps (n + 1) (s.facing false (busWrite s.params .dataIn v :: rest) readData) =
      runSteps n (({ s with dataIn := v } : State).facing false rest readData) :=
  runSteps_succ (hostWritesOfOtherRegisters _ .dataIn v rest rfl (by decide) rfl) n

/-- FREQ_LOAD, DEC_LOAD and DES_LOAD (R310): DATA_IN, then the command. -/
theorem runSteps_load {i : Instr} {v : Word} (h : exec i { s with dataIn := v } = .next t) :
    runSteps (n + 3)
        (s.facing false (busWrite s.params .dataIn v :: commandMoves s.params i ++ rest) readData) =
      runSteps n (t.facing false rest (lanesOf (statusWord t))) :=
  (runSteps_dataIn (n + 2) _ readData v).trans (runSteps_command n rest readData h)

end

/-- Placed with nothing before it, a statement's moves are the moves to come. -/
theorem withProgram_eq_facing {s : State} (hidle : s.busy = false) (hbus : s.bus = []) (p : Stmt) :
    s.withProgram [p] = s.facing false (stmtMoves s.params p) s.readData := by
  simp [State.withProgram, State.facing, hidle, hbus]

/-- A command's end with its poll read and no move left to come. -/
theorem facing_of_exec {i : Instr} {s t : State} (h : exec i s = .next t) (hbus : s.bus = []) :
    t.facing false [] (lanesOf (statusWord t)) = polled t :=
  facing_eq_polled (everyCommandReportsItself i s t h).1 ((exec_keeps_outside h).2.1.trans hbus)

theorem runCommands_cons {i : Instr} {is : List Instr} {s t : State}
    (h : runCommands (i :: is) s = .next t) :
    ∃ u, exec i s = .next u ∧ runCommands is u = .next t := by
  rw [runCommands] at h
  split at h
  · exact ⟨_, ‹_›, h⟩
  · cases h
  · cases h

/-- Command statements one after the other leave what the commands one after the other leave. -/
theorem runSteps_commands {is : List Instr} {s t : State} (hne : is ≠ []) (hbus : s.bus = [])
    (h : runCommands is s = .next t) (readData : List Byte) :
    runSteps (2 * is.length) (s.facing false (is.flatMap (commandMoves s.params)) readData) =
      .next (polled t) := by
  induction is generalizing s readData with
  | nil => exact absurd rfl hne
  | cons i is ih =>
    obtain ⟨u, hu, h⟩ := runCommands_cons h
    obtain ⟨hparams, hubus, -⟩ := exec_keeps_outside hu
    rw [List.flatMap_cons, List.length_cons, Nat.mul_succ, runSteps_command _ _ _ hu, ← hparams]
    cases is with
    | nil =>
      cases h
      exact congrArg _ (facing_of_exec hu hbus)
    | cons j is => exact ih nofun (hubus.trans hbus) h _

/-- Commands that answer a next state of every state do so one after the other. -/
theorem exists_runCommands {α : Type} {command : α → Instr}
    (h : ∀ x s, ∃ t, exec (command x) s = .next t) (xs : List α) (s : State) :
    ∃ t, runCommands (xs.map command) s = .next t := by
  induction xs generalizing s with
  | nil => exact ⟨s, rfl⟩
  | cons x xs ih =>
    obtain ⟨t, ht⟩ := h x s
    rw [List.map_cons, runCommands, ht]
    exact ih t

theorem exec_freqCount_total (sym : Byte) (s : State) : ∃ t, exec (.freqCount sym) s = .next t := by
  rw [exec, execFreqCount]
  split <;> exact ⟨_, rfl⟩

theorem exec_freqWrite_total (sym : Byte) (s : State) : ∃ t, exec (.freqWrite sym) s = .next t := by
  simp only [exec, execFreqWrite]
  split <;> exact ⟨_, rfl⟩

theorem exec_encSym_total (sym : Byte) (s : State) : ∃ t, exec (.encSym sym) s = .next t := by
  simp only [exec, execEncSym]
  repeat' split
  all_goals exact ⟨_, rfl⟩

theorem exec_desWrite_total (idx : BitVec 10) (s : State) : ∃ t, exec (.desWrite idx) s = .next t := by
  rw [exec, execDesWrite]
  split <;> exact ⟨_, rfl⟩

/-! ### DES_IMAGE -/

/-- The moves that load these values into SERBUF from index `k` on (R310). -/
def imageMoves (p : Params) : (k : Nat) → List Word → List HostMove
  | _, [] => []
  | k, v :: vs =>
    (busWrite p .dataIn v :: commandMoves p (.desWrite (BitVec.ofNat 10 k))) ++ imageMoves p (k + 1) vs

theorem imageMoves_eq (p : Params) (k : Nat) (values : List Word) : imageMoves p k values =
    (values.mapIdx fun i v =>
      busWrite p .dataIn v :: commandMoves p (.desWrite (BitVec.ofNat 10 (k + i)))).flatten := by
  induction values generalizing k with
  | nil => rfl
  | cons v vs ih => simp [imageMoves, ih, List.mapIdx_cons, Nat.add_assoc, Nat.add_comm 1]

theorem stmtMoves_desImage (p : Params) (values : List Word) :
    stmtMoves p (.desImage values) = imageMoves p 0 values := by
  simp only [imageMoves_eq, Nat.zero_add, stmtMoves]

/-- What the DES_LOADs of an image from index `k` on leave of `s`, `last` being its last value. -/
def imageStored (s : State) (k : Nat) (values : List Word) (last : Word) : State :=
  complete 0x62#8 0#32 0#32 { s with dataIn := last, serbuf := s.serbuf.writeFrom k values }

theorem exec_desWrite_of_le {k : Nat} (hk : k ≤ 1022) (s : State) (v : Word) :
    exec (.desWrite (BitVec.ofNat 10 k)) { s with dataIn := v } = .next (imageStored s k [v] v) := by
  have hidx : (BitVec.ofNat 10 k).toNat = k := by
    rw [BitVec.toNat_ofNat, Nat.mod_eq_of_lt (by omega)]
  rw [exec, execDesWrite, if_neg (by omega), hidx]
  rfl

/-- The moves of an image run to the stored image, each DES_LOAD adding its word after those before it. -/
theorem runSteps_image {values : List Word} {last : Word} (hlast : values.getLast? = some last) {k : Nat}
    (hlen : k + values.length ≤ 1023) {s : State} (hbus : s.bus = []) (readData : List Byte) :
    runSteps (3 * values.length) (s.facing false (imageMoves s.params k values) readData) =
      .next (polled (imageStored s k values last)) := by
  induction values generalizing s k readData with
  | nil => cases hlast
  | cons v vs ih =>
    rw [List.length_cons] at hlen
    have hv := exec_desWrite_of_le (k := k) (by omega) s v
    rw [imageMoves, List.length_cons, Nat.mul_succ, runSteps_load _ _ _ hv]
    cases vs with
    | nil =>
      cases hlast
      exact congrArg _ (facing_of_exec hv hbus)
    | cons w ws => exact ih hlast (by omega) (s := imageStored s k [v] v) hbus _

/-- What DES_IMAGE leaves: the words of SERBUF, DATA_IN, the report and the frame. -/
theorem imageStored_spec (s : State) (values : List Word) (last : Word) :
    let t := imageStored s 0 values last
    (∀ j v, values[j]? = some v → t.serbuf.lookup j = some v) ∧
    (∀ j, values.length ≤ j → t.serbuf.lookup j = s.serbuf.lookup j) ∧
    t.dataIn = last ∧ Reports t 0x62#8 0#32 0#32 ∧
    t = { withReport t s with dataIn := t.dataIn, serbuf := t.serbuf } := by
  refine ⟨fun j v hv => ?_, fun j hj => ?_, rfl, complete_reports .., rfl⟩
  · obtain ⟨hj, rfl⟩ := List.getElem?_eq_some_iff.1 hv
    have h := Memory.lookup_writeFrom_inside s.serbuf 0 values hj
    rw [Nat.zero_add] at h
    exact h
  · exact Memory.lookup_writeFrom_outside s.serbuf 0 values (.inr (by simpa using hj))

/-! ### Host statements -/

section
variable {s t : State} (hidle : s.busy = false) (hbus : s.bus = [])
include hidle hbus

/-- A program of one statement runs as the statement's moves. -/
theorem run_withProgram (n : Nat) (p : Stmt) : Host.Core.run Sys2Proof.core n (s.withProgram [p]) =
    runSteps n (s.facing false (stmtMoves s.params p) s.readData) := by
  rw [← withProgram_eq_facing hidle hbus]
  rfl

theorem run_command {i : Instr} (h : exec i s = .next t) :
    Host.Core.run Sys2Proof.core 2 (s.withProgram [.command i]) = .next (polled t) :=
  (run_withProgram hidle hbus 2 _).trans <|
    (runSteps_command 0 [] _ h).trans (congrArg _ (facing_of_exec h hbus))

theorem run_wr_cmd {v : Word} (h : submit v s = .next t) :
    Host.Core.run Sys2Proof.core 1 (s.withProgram [.wr .cmd v]) = .next t := by
  refine (run_withProgram hidle hbus 1 _).trans (runSteps_succ ((step_cmdWrite rfl rfl).trans ?_) 0)
  rw [← h]
  exact congrArg _ (facing_self hidle hbus)

theorem run_wr_dataIn (v : Word) :
    Host.Core.run Sys2Proof.core 1 (s.withProgram [.wr .dataIn v]) = .next { s with dataIn := v } :=
  (run_withProgram hidle hbus 1 _).trans <|
    (runSteps_dataIn 0 [] _ v).trans (congrArg _ (facing_self (s := { s with dataIn := v }) hidle hbus))

theorem run_wr_other {r : Reg} (hcmd : r ≠ .cmd) (hdata : r ≠ .dataIn) (v : Word) :
    Host.Core.run Sys2Proof.core 1 (s.withProgram [.wr r v]) = .next s := by
  refine (run_withProgram hidle hbus 1 _).trans
    (runSteps_succ ((hostWritesOfOtherRegisters _ r v [] rfl hcmd rfl).trans ?_) 0)
  rw [if_neg hdata]
  exact congrArg _ (facing_self hidle hbus)

theorem run_rd (r : Reg) : Host.Core.run Sys2Proof.core 1 (s.withProgram [.rd r]) =
    .next { s with readData := lanesOf (readReg r s) } := by
  refine (run_withProgram hidle hbus 1 _).trans (runSteps_succ ((step_busRead [] _ r).trans ?_) 0)
  rw [facing_self hidle hbus]
  exact congrArg _ (facing_self (s := { s with readData := lanesOf (readReg r s) }) hidle hbus)

/-- FREQ_LOAD, DEC_LOAD and DES_LOAD, each by its expansion (R310). -/
theorem run_load {p : Stmt} {i : Instr} {v : Word}
    (hp : stmtMoves s.params p = busWrite s.params .dataIn v :: commandMoves s.params i)
    (h : exec i { s with dataIn := v } = .next t) :
    Host.Core.run Sys2Proof.core 3 (s.withProgram [p]) = .next (polled t) := by
  rw [run_withProgram hidle hbus, hp]
  exact (runSteps_load 0 [] _ h).trans (congrArg _ (facing_of_exec h hbus))

/-- COUNT, ENCODE and DECODE_BITS, each by its expansion (R310): a command for each element of a list. -/
theorem run_each {α : Type} {p : Stmt} {xs : List α} {command : α → Instr}
    (hp : stmtMoves s.params p = xs.flatMap fun x => commandMoves s.params (command x)) (hne : xs ≠ [])
    (h : runCommands (xs.map command) s = .next t) :
    Host.Core.run Sys2Proof.core (2 * xs.length) (s.withProgram [p]) = .next (polled t) := by
  have hrun := runSteps_commands (by simpa using hne) hbus h s.readData
  rwa [List.length_map, List.flatMap_map, ← hp, ← run_withProgram hidle hbus] at hrun

theorem run_desImage {values : List Word} {last : Word} (hlast : values.getLast? = some last)
    (hlen : values.length ≤ 1023) :
    Host.Core.run Sys2Proof.core (3 * values.length) (s.withProgram [.desImage values]) =
      .next (polled (imageStored s 0 values last)) := by
  rw [run_withProgram hidle hbus, stmtMoves_desImage]
  exact runSteps_image hlast (by omega) hbus _

end

/-- Settles O15, statement by statement: each runs as the moves of its expansion, and the commands among them do
of the state what they do of it with no host (`exec_facing`). -/
theorem hostStatementsRun : Obligations.HostStatementsRun := by
  intro s hidle hbus runs
  refine ⟨fun i t => run_command hidle hbus, fun v t => run_wr_cmd hidle hbus, run_wr_dataIn hidle hbus,
    fun r v hcmd hdata => run_wr_other hidle hbus hcmd hdata v, run_rd hidle hbus, ?poll, ?freqLoad,
    fun bits cnt t => run_load hidle hbus rfl, ?desLoad, ?count, ?encode,
    fun bits t => run_each hidle hbus rfl, ?desImage, ?empty⟩
  case poll => exact run_rd hidle hbus .status
  case freqLoad =>
    intro sym v
    obtain ⟨t, ht⟩ := exec_freqWrite_total sym { s with dataIn := v }
    exact ⟨t, ht, run_load hidle hbus rfl ht⟩
  case desLoad =>
    intro idx v
    obtain ⟨t, ht⟩ := exec_desWrite_total idx { s with dataIn := v }
    exact ⟨t, ht, run_load hidle hbus rfl ht⟩
  case count =>
    intro text hne
    obtain ⟨t, ht⟩ := exists_runCommands exec_freqCount_total text s
    exact ⟨t, ht, run_each hidle hbus rfl hne ht⟩
  case encode =>
    intro text hne
    obtain ⟨t, ht⟩ := exists_runCommands exec_encSym_total text s
    exact ⟨t, ht, run_each hidle hbus rfl hne ht⟩
  case desImage =>
    intro values hne hlen
    have hlast := List.getLast?_eq_some_getLast hne
    obtain ⟨hin, hout, hdata, hreports, hframe⟩ := imageStored_spec s values (values.getLast hne)
    exact ⟨_, run_desImage hidle hbus hlast hlen, hin, hout, hdata ▸ hlast, hreports, hframe⟩
  case empty =>
    intro p hp
    have hmoves : stmtMoves s.params p = [] := by
      simp only [List.mem_cons, List.not_mem_nil, or_false] at hp
      rcases hp with rfl | rfl | rfl | rfl <;> rfl
    simp [State.withProgram, hmoves]

end Machine
end Sys2Proof

namespace Sys2Proof
namespace Machine

/-! ### The control commands -/

/-- Settles O21: both commands complete, with results 0 and 0, and ERR_CLEAR does so on the state with
ERR_STICKY cleared. -/
theorem nopAndErrClear : Obligations.NopAndErrClear := fun s =>
  ⟨⟨complete 0x00#8 0#32 0#32 s, rfl, complete_reports .., complete_eq_withReport ..⟩,
    ⟨complete 0x02#8 0#32 0#32 { s with errSticky := false }, rfl, complete_reports .., rfl⟩⟩

/-- TREE_INFO with no tree loaded and no codes: ROOT is NIL and the other fields are 0 (R126). -/
theorem treeInfoWord_of_unloaded {s : State} (hroot : s.root = Config.nil) (hnnodes : s.nnodes = 0#9)
    (hnleaves : s.nleaves = 0#9) (htree : s.treeValid = false) (hcodes : s.codesValid = false) :
    treeInfoWord s = 0x000001FF#32 := by
  rw [treeInfoWord, hroot, hnnodes, hnleaves, htree, hcodes]
  decide

/-- DEC_INFO with no tree loaded: DEC_NODE is NIL, and AT_ROOT is 1 since ROOT is NIL too (R128). -/
theorem decInfoWord_of_unloaded {s : State} (hroot : s.root = Config.nil)
    (hnode : s.decNode = Config.nil) : decInfoWord s = 0x000003FF#32 := by
  rw [decInfoWord, hroot, hnode]
  decide

/-- Settles O22: SOFT_RESET completes on the state that `resetRegisters` leaves, whose registers have their
reset values and whose SERBUF and NODE are those of before. -/
theorem softResetKeepsSerbufAndNodes : Obligations.SoftResetKeepsSerbufAndNodes := by
  intro s
  refine ⟨complete 0x01#8 0#32 0#32 (resetRegisters s), rfl, complete_reports .., rfl, rfl, rfl, ?tables,
    ?treeInfo, ?decInfo, rfl, rfl, rfl, rfl, rfl, rfl, rfl, rfl, rfl⟩
  case tables => exact fun sym => ⟨freqAt_of_cleared rfl sym, codeAt_of_cleared rfl sym⟩
  case treeInfo => exact treeInfoWord_of_unloaded rfl rfl rfl rfl rfl
  case decInfo => exact decInfoWord_of_unloaded rfl rfl

end Machine
end Sys2Proof

namespace Sys2Proof
namespace Machine

/-! ### The frequency table commands -/

/-- Settles O23: FREQ_CLEAR completes on the state with every count and the total cleared. -/
theorem freqClearEmptiesTheTable : Obligations.FreqClearEmptiesTheTable := fun s =>
  ⟨complete 0x10#8 0#32 0#32 { s with freq := Vector.replicate 256 0#32, total := 0#32 }, rfl,
    complete_reports .., freqAt_of_cleared rfl, rfl, rfl⟩

/-- Settles O26: FREQ_READ completes on the state it finds. -/
theorem freqReadReadsOneCount : Obligations.FreqReadReadsOneCount := fun s sym =>
  ⟨complete 0x13#8 (s.freqAt sym) s.total s, rfl, complete_reports .., complete_eq_withReport ..⟩

/-- The state in which FREQ_COUNT and FREQ_WRITE complete: one new count and the new total, which are the
results too (R423, R424). -/
def countSet (opc sym : Byte) (v total : Word) (s : State) : State :=
  complete opc v total { s.setFreq sym v with total := total }

theorem countSet_spec (opc sym : Byte) (v total : Word) (s : State) :
    let t := countSet opc sym v total s
    t.freqAt sym = v ∧ (∀ u, u ≠ sym → t.freqAt u = s.freqAt u) ∧ t.total = total ∧
      Reports t opc v total ∧ t = { withReport t s with freq := t.freq, total := t.total } :=
  ⟨freqAt_setFreq_same s sym v, fun _ hu => freqAt_setFreq_other s v hu, rfl, complete_reports .., rfl⟩

/-- TOTAL is at FREQ_MAX as a word exactly when it is so as a number. -/
theorem total_eq_full_iff (s : State) : s.total = 0xFFFFFFFF#32 ↔ s.total.toNat = Config.freqMax :=
  BitVec.toNat_inj.symm

theorem exec_freqCount_of_full {s : State} (h : s.total.toNat = Config.freqMax) (sym : Byte) :
    exec (.freqCount sym) s = .next (raisedState .countOverflow (zext32 sym) 0x11#8 s) := by
  rw [exec, execFreqCount, if_pos (by omega), raise_eq_raisedState]

theorem exec_freqCount_of_lt {s : State} (h : s.total.toNat < Config.freqMax) (sym : Byte) :
    exec (.freqCount sym) s = .next (countSet 0x11#8 sym (s.freqAt sym + 1#32) (s.total + 1#32) s) := by
  rw [exec, execFreqCount, if_neg (by omega), countSet]

/-- Below FREQ_MAX a word and its successor differ by exactly 1 (R426). -/
theorem toNat_add_one_of_lt {v : Word} (h : v.toNat < Config.freqMax) :
    (v + 1#32).toNat = v.toNat + 1 :=
  BitVec.toNat_add_of_lt (Nat.add_lt_add_right h 1)

/-- Settles O24: below FREQ_MAX both sums are exact, since the law bounds a count by the total. -/
theorem freqCountCountsOneSymbol : Obligations.FreqCountCountsOneSymbol := by
  intro s sym hf
  refine ⟨fun hfull => exec_freqCount_of_full ((total_eq_full_iff s).1 hfull) sym, fun hne => ?_⟩
  have hroom : s.total.toNat < Config.freqMax :=
    Nat.lt_of_le_of_ne (Nat.le_of_lt_succ s.total.isLt) (mt (total_eq_full_iff s).2 hne)
  obtain ⟨hsame, hother, htotal, hreports, hframe⟩ :=
    countSet_spec 0x11#8 sym (s.freqAt sym + 1#32) (s.total + 1#32) s
  refine ⟨_, exec_freqCount_of_lt hroom sym, ?count, hother, ?total, ?reports, hframe⟩
  case count =>
    rw [hsame]
    exact toNat_add_one_of_lt (Nat.lt_of_le_of_lt (freqAt_le_total hf sym) hroom)
  case total =>
    rw [htotal]
    exact toNat_add_one_of_lt hroom
  case reports =>
    rw [hsame, htotal]
    exact hreports

/-- Under the law the difference of FREQ_WRITE does not stop at 0: it is the exact one of R424. -/
theorem totalAfterWrite_eq_sub {s : State} (hf : FreqLaw s) (sym : Byte) (v : Word) :
    (totalAfterWrite s sym v : Int) = (s.total.toNat : Int) - (s.freqAt sym).toNat + v.toNat := by
  have hle := freqAt_le_total hf sym
  rw [totalAfterWrite]
  omega

theorem exec_freqWrite_of_gt {s : State} {sym : Byte}
    (h : totalAfterWrite s sym s.dataIn > Config.freqMax) :
    exec (.freqWrite sym) s = .next (raisedState .countOverflow (zext32 sym) 0x12#8 s) := by
  rw [exec, execFreqWrite, if_pos h, raise_eq_raisedState]

theorem exec_freqWrite_of_le {s : State} {sym : Byte}
    (h : totalAfterWrite s sym s.dataIn ≤ Config.freqMax) :
    exec (.freqWrite sym) s = .next (countSet 0x12#8 sym s.dataIn (word (totalAfterWrite s sym s.dataIn)) s) := by
  rw [exec, execFreqWrite, if_neg (Nat.not_lt.2 h), countSet]

/-- Settles O25: the model's new total is the exact one, so the two cases are its branches. -/
theorem freqWriteSetsOneCount : Obligations.FreqWriteSetsOneCount := by
  intro s sym hf
  rw [← totalAfterWrite_eq_sub hf]
  refine ⟨fun h => exec_freqWrite_of_gt (Int.ofNat_lt.1 h), fun h => ?_⟩
  have hle : totalAfterWrite s sym s.dataIn ≤ Config.freqMax := Int.ofNat_le.1 h
  obtain ⟨hsame, hother, htotal, hreports, hframe⟩ :=
    countSet_spec 0x12#8 sym s.dataIn (word (totalAfterWrite s sym s.dataIn)) s
  refine ⟨_, exec_freqWrite_of_le hle, hsame, hother, congrArg Int.ofNat ?_, hreports, hframe⟩
  rw [htotal, BitVec.toNat_ofNat, Nat.mod_eq_of_lt (Nat.lt_succ_of_le hle)]

/-! ### The frequency law along runs -/

theorem FreqLaw.of_sameTables {s t : State} (hsame : SameTables s t) (hf : FreqLaw s) : FreqLaw t :=
  hf.congr (hsame .freq nofun nofun nofun)

theorem exec_keeps_freqLaw {i : Instr} {s t : State} (hf : FreqLaw s) (h : exec i s = .next t) :
    FreqLaw t :=
  exec_keeps (fun _ _ => FreqLaw.of_sameTables) (fun _ _ _ hf hu => Effect.freqLaw hu hf) hf h

/-- Settles O57: the law sees only FREQ and TOTAL; every command's effect keeps it, and the reset input
clears both. -/
theorem everyStepKeepsTheFrequencyLaw : Obligations.EveryStepKeepsTheFrequencyLaw := fun _ _ hf h =>
  step_keeps (fun _ _ => FreqLaw.of_sameTables) (fun _ _ _ hf hu => Effect.freqLaw hu hf)
    (fun _ _ => freqLaw_of_cleared rfl rfl) hf h

/-! ### Counting a sequence -/

theorem runCommands_cons_of_exec {i : Instr} {s u : State} (h : exec i s = .next u) (is : List Instr) :
    runCommands (i :: is) s = runCommands is u := by
  rw [runCommands, h]

/-- One FREQ_COUNT per symbol, from any lawful state in which the sequence still fits, adds the numbers of
occurrences to FREQ and the length to TOTAL. -/
theorem runCommands_freqCount {s : State} (hf : FreqLaw s) (hok : s.lastErr = .ok) (S : List Byte)
    (hfits : s.total.toNat + S.length ≤ Config.freqMax) :
    ∃ t, runCommands (S.map .freqCount) s = .next t ∧ t.lastErr = .ok ∧
      (∀ sym, (t.freqAt sym).toNat = (s.freqAt sym).toNat + S.count sym) ∧
      t.total.toNat = s.total.toNat + S.length := by
  induction S generalizing s with
  | nil => exact ⟨s, rfl, hok, fun _ => rfl, rfl⟩
  | cons c S ih =>
    rw [List.length_cons] at hfits
    have hne : s.total ≠ 0xFFFFFFFF#32 := mt (total_eq_full_iff s).1 (by omega)
    obtain ⟨u, hu, hsame, hother, htotal, ⟨-, huok, -⟩, -⟩ := (freqCountCountsOneSymbol s c hf).2 hne
    obtain ⟨t, ht, htok, hcount, hlength⟩ := ih (exec_keeps_freqLaw hf hu) huok (by omega)
    refine ⟨t, (runCommands_cons_of_exec hu _).trans ht, htok, fun sym => ?_, ?_⟩
    · rw [hcount sym, List.count_cons]
      by_cases hsym : sym = c
      · rw [hsym, hsame, beq_self_eq_true, if_pos rfl]
        omega
      · rw [hother sym hsym, if_neg (by simpa using Ne.symm hsym)]
        omega
    · rw [hlength, htotal, List.length_cons]
      omega

/-- Settles O27: FREQ_CLEAR leaves a lawful state with nothing counted, from which the sequence is counted. -/
theorem countingASequence : Obligations.CountingASequence := by
  intro s S hlen
  obtain ⟨u, hu, ⟨-, huok, -⟩, hfreq, htotal, -⟩ := freqClearEmptiesTheTable s
  have hlaw : FreqLaw u := by
    cases hu
    exact freqLaw_of_cleared rfl rfl
  obtain ⟨t, ht, htok, hcount, hlength⟩ :=
    runCommands_freqCount hlaw huok S (by simpa [htotal] using hlen)
  have hlength : t.total.toNat = S.length := by simpa [htotal] using hlength
  exact ⟨t, (runCommands_cons_of_exec hu _).trans ht, htok, fun sym => by simpa [hfreq] using hcount sym,
    hlength, fun hfull => exec_freqCount_of_full (hlength.trans hfull)⟩

end Machine
end Sys2Proof

namespace Sys2Proof
namespace Machine

/-! ### Unloading the tree and reading an entry -/

/-- Settles O30: TREE_CLEAR completes on the state that `unloadTree` leaves. -/
theorem treeClearUnloadsTheTree : Obligations.TreeClearUnloadsTheTree := fun s =>
  ⟨complete 0x21#8 0#32 0#32 (unloadTree s), rfl, complete_reports ..,
    treeInfoWord_of_unloaded rfl rfl rfl rfl rfl, decInfoWord_of_unloaded rfl rfl,
    codeAt_of_cleared rfl, rfl, rfl⟩

theorem nodeWord_eq_cast (e : Node) : nodeWord e =
    BitVec.cast (rfl : 1 + 4 + 9 + 9 + 1 + 8 = 32) (BitVec.ofBool e.isLeaf ++ 0#4 ++ e.left ++ e.right ++
      0#1 ++ e.symbol) := rfl

/-- The fields of the word that NODE_READ answers (R452). -/
theorem nodeWord_fields (e : Node) :
    (nodeWord e).getLsbD 31 = e.isLeaf ∧ (nodeWord e).extractLsb' 18 9 = e.left ∧
      (nodeWord e).extractLsb' 9 9 = e.right ∧ (nodeWord e).extractLsb' 0 8 = e.symbol ∧
      (nodeWord e).extractLsb' 27 4 = 0#4 ∧ (nodeWord e).getLsbD 8 = false := by
  simp (disch := decide) [-Nat.reduceAdd, -BitVec.getLsbD_eq_getElem,
    nodeWord_eq_cast, BitVec.getLsbD_append, BitVec.extractLsb'_append_eq_of_le,
    BitVec.extractLsb'_append_eq_of_add_le]

theorem exec_nodeRead_of_le {s : State} {idx : BitVec 10} (h : s.nnodes.toNat ≤ idx.toNat) :
    exec (.nodeRead idx) s = .next (raisedState .argRange (zext32 idx) 0x22#8 s) := by
  rw [exec, execNodeRead, if_pos h, raise_eq_raisedState]

theorem exec_nodeRead_of_entry {s : State} {idx : BitVec 10} {e : Node} (h : idx.toNat < s.nnodes.toNat)
    (he : s.arena[idx.toNat]? = some e) :
    exec (.nodeRead idx) s = .next (complete 0x22#8 (nodeWord e) e.freq s) := by
  rw [exec, execNodeRead, if_neg (Nat.not_le.2 h), he]

/-- Where the entries of the tree have been written, every index below NNODES names one (R142). -/
theorem exists_entry_of_stored {s : State} (hstored : s.nnodes.toNat ≤ s.nodes.length) {i : Nat}
    (hi : i < s.nnodes.toNat) : ∃ e, s.arena[i]? = some e :=
  ⟨_, List.getElem?_eq_getElem (by rw [State.arena, List.length_take]; omega)⟩

/-- Settles O31: below NNODES the results are the entry's word and its F, and the kind of the entry says which
fields the word carries. -/
theorem nodeReadReadsOneEntry : Obligations.NodeReadReadsOneEntry := by
  refine fun s idx => ⟨exec_nodeRead_of_le, fun hidx hstored => ?_⟩
  obtain ⟨e, he⟩ := exists_entry_of_stored hstored hidx
  obtain ⟨hleaf, hleft, hright, hsymbol, hzeros, hzero⟩ := nodeWord_fields e
  refine ⟨e, complete 0x22#8 (nodeWord e) e.freq s, he, exec_nodeRead_of_entry hidx he, ?leaf, ?inner,
    hzeros, hzero, complete_reports .., complete_eq_withReport ..⟩
  case leaf =>
    rintro sym f rfl
    exact ⟨hleaf, hleft, hright, hsymbol, rfl⟩
  case inner =>
    rintro f l r rfl
    exact ⟨hleaf, hleft, hright, hsymbol, rfl⟩

end Machine
end Sys2Proof

namespace Sys2Proof
namespace Machine

/-! ### What BUILD loads -/

/-- The root of the tree that BUILD makes: its last entry (R443). -/
def builtRoot (s : State) : NodeIdx := BitVec.ofNat 9 ((builtArena (leafNodes s)).length - 1)

/-- The state in which BUILD completes, when there is a count (R448). -/
def builtState (s : State) : State :=
  complete 0x20#8 (zext32 (builtRoot s)) (word (builtArena (leafNodes s)).length)
    (loadTree (builtArena (leafNodes s)) (builtRoot s) (leafNodes s).length s)

/-- A total that is not 0 is the sum of some counts. -/
theorem leafNodes_ne_nil {s : State} (hf : FreqLaw s) (htotal : s.total ≠ 0#32) : leafNodes s ≠ [] := by
  intro hnil
  have hsum := sum_leafNodes s
  rw [← hf, hnil] at hsum
  exact htotal (BitVec.eq_of_toNat_eq hsum.symm)

theorem exec_build_of_no_count {s : State} (htotal : s.total = 0#32) :
    exec .build s = .next (raisedState .emptyInput 0#32 0x20#8 s) := by
  rw [exec, execBuild, if_pos htotal, raise_eq_raisedState]

theorem exec_build_of_count {s : State} (hf : FreqLaw s) (htotal : s.total ≠ 0#32) :
    exec .build s = .next (builtState s) := by
  obtain ⟨leaf, leaves, hleaves⟩ := List.exists_cons_of_ne_nil (leafNodes_ne_nil hf htotal)
  simp only [exec, execBuild, if_neg htotal, hleaves, builtState, builtRoot]

theorem treeLaw_builtState {s : State} (hf : FreqLaw s) (hne : leafNodes s ≠ []) : TreeLaw (builtState s) :=
  (treeLaw_built hf hne).congr ((Item.same_complete ..).2 ⟨rfl, rfl, rfl, rfl, rfl⟩)

section
variable {s : State} (hf : FreqLaw s) (hne : leafNodes s ≠ [])
include hf hne

theorem arena_builtState : (builtState s).arena = builtArena (leafNodes s) :=
  arena_loadTree (lawfulArena_built hf hne).length_le (builtRoot s) (leafNodes s).length s

theorem nnodes_builtState : (builtState s).nnodes.toNat = (builtArena (leafNodes s)).length :=
  toNat_ofNat_nine (lawfulArena_built hf hne).length_le

theorem root_builtState : (builtState s).root.toNat = (builtArena (leafNodes s)).length - 1 :=
  toNat_ofNat_nine ((Nat.sub_le ..).trans (lawfulArena_built hf hne).length_le)

/-- A full binary tree with k leaves has 2k - 1 nodes (R443). -/
theorem length_builtArena : (builtArena (leafNodes s)).length = 2 * (leafNodes s).length - 1 := by
  obtain ⟨k, hk, -⟩ := mergeInv_built hf hne
  have hlength := hk.length
  rw [List.length_singleton] at hlength
  omega

/-- The last node of the working set carries the sum of all leaves, which is TOTAL (R447). -/
theorem root_carries_total : ∃ e, (builtState s).nodeAt (builtState s).root = some e ∧ e.freq = s.total := by
  obtain ⟨k, hk, hlast⟩ := mergeInv_built hf hne
  obtain ⟨e, he, hfreq⟩ := hk.keys k List.mem_cons_self
  have hsum : k.freq = s.total.toNat := by
    rw [hf, ← sum_leafNodes, ← hk.sum]
    exact List.sum_singleton.symm
  refine ⟨e, ?_, BitVec.eq_of_toNat_eq (hfreq.trans hsum)⟩
  rw [State.nodeAt, arena_builtState hf hne, root_builtState hf hne, ← hlast]
  exact he

theorem builtState_reports :
    Reports (builtState s) 0x20#8 (zext32 (builtState s).root) (zext32 (builtState s).nnodes) := by
  have hnnodes : word (builtArena (leafNodes s)).length = zext32 (builtState s).nnodes := by
    rw [← nnodes_builtState hf hne]
    exact BitVec.ofNat_toNat ..
  rw [← hnnodes]
  exact complete_reports ..

/-- The entries beyond the new tree are those of before (R450). -/
theorem drop_nodes_builtState :
    (builtState s).nodes.drop (builtState s).nnodes.toNat = s.nodes.drop (builtState s).nnodes.toNat := by
  rw [nnodes_builtState hf hne]
  exact List.drop_left

end

/-- Settles O28: the merges end with one lawful tree, whose root carries the sum of the counts, and BUILD
completes on the state that has it loaded. -/
theorem buildLoadsATree : Obligations.BuildLoadsATree := by
  refine fun s hf => ⟨exec_build_of_no_count, fun htotal => ?_⟩
  have hne := leafNodes_ne_nil hf htotal
  exact ⟨builtState s, exec_build_of_count hf htotal, rfl, treeLaw_builtState hf hne, rfl,
    codeAt_of_cleared rfl, rfl, rfl, root_carries_total hf hne, builtState_reports hf hne,
    drop_nodes_builtState hf hne, rfl⟩

end Machine
end Sys2Proof

namespace Sys2Proof
namespace Machine

/-! ### The order of BUILD's merges

`MergeTrace` adds to `MergeInv` which entries the working set holds and what each merge so far has chosen. -/

theorem Key.before_of_not_before {a b : Key} (hne : a.idx ≠ b.idx) (h : b.before a = false) :
    a.before b = true := by
  simp [Key.before] at *
  omega

/-- R444 for entry `n` of an arena with `k` leaves: it merges the two entries of its working set with the
least keys, the lesser on the left, and F is their exact sum. -/
def MergesLeast (arena : List Node) (k n : Nat) : Prop :=
  ∃ f l r, arena[n]? = some (Node.inner f l r) ∧
    inWorkingSet arena k n l.toNat ∧ inWorkingSet arena k n r.toNat ∧
    (keyAt arena l.toNat).before (keyAt arena r.toNat) = true ∧
    (∀ j, inWorkingSet arena k n j → j ≠ l.toNat → j ≠ r.toNat →
      (keyAt arena r.toNat).before (keyAt arena j) = true) ∧
    f.toNat = (keyAt arena l.toNat).freq + (keyAt arena r.toNat).freq

/-- The working set of an entry looks only at the entries before it. -/
theorem inWorkingSet_append {arena : List Node} {k n j : Nat} (hn : n ≤ arena.length) (more : List Node) :
    inWorkingSet (arena ++ more) k n j ↔ inWorkingSet arena k n j := by
  refine and_congr_right fun _ => forall_congr' fun m => forall_congr' fun _ => forall_congr' fun hm => ?_
  rw [List.getElem?_append_left (Nat.lt_of_lt_of_le hm hn)]

theorem keyAt_append {arena : List Node} {j : Nat} (hj : j < arena.length) (more : List Node) :
    keyAt (arena ++ more) j = keyAt arena j := by
  rw [keyAt, keyAt, List.getElem?_append_left hj]

/-- Entries added at the end do not change what a merge has chosen. -/
theorem MergesLeast.append {arena : List Node} {k n : Nat} (h : MergesLeast arena k n) (more : List Node) :
    MergesLeast (arena ++ more) k n := by
  obtain ⟨f, l, r, hn, hl, hr, hlr, hleast, hf⟩ := h
  have hlen : n < arena.length := (List.getElem?_eq_some_iff.1 hn).1
  have hset : ∀ j, inWorkingSet (arena ++ more) k n j ↔ inWorkingSet arena k n j :=
    fun _ => inWorkingSet_append hlen.le more
  have hkey : ∀ j, inWorkingSet arena k n j → keyAt (arena ++ more) j = keyAt arena j :=
    fun _ hj => keyAt_append (hj.1.trans hlen) more
  refine ⟨f, l, r, getElem?_append_of_eq_some hn more, (hset _).2 hl, (hset _).2 hr, ?_, ?_, ?_⟩
  · rwa [hkey _ hl, hkey _ hr]
  · intro j hj hjl hjr
    have hj := (hset j).1 hj
    rw [hkey _ hr, hkey _ hj]
    exact hleast j hj hjl hjr
  · rwa [hkey _ hl, hkey _ hr]

/-- The working set after one more entry: the same one if the entry is a merge, without its children and with
the entry itself (R443). -/
theorem inWorkingSet_merge {arena : List Node} {k : Nat} {a b : Key} (hc : ChildrenBefore arena)
    (hk : k ≤ arena.length) (hlen : arena.length < Config.maxNodes)
    (ha : a.idx < arena.length) (hb : b.idx < arena.length) (j : Nat) :
    inWorkingSet (arena ++ [mergedNode a b]) k (arena ++ [mergedNode a b]).length j ↔
      j = arena.length ∨ (inWorkingSet arena k arena.length j ∧ a.idx ≠ j ∧ b.idx ≠ j) := by
  have hmerged : (arena ++ [mergedNode a b])[arena.length]? = some (mergedNode a b) :=
    List.getElem?_concat_length
  have hna : (BitVec.ofNat 9 a.idx).toNat = a.idx := toNat_ofNat_nine (ha.trans hlen).le
  have hnb : (BitVec.ofNat 9 b.idx).toNat = b.idx := toNat_ofNat_nine (hb.trans hlen).le
  rw [List.length_append, List.length_singleton]
  constructor
  · rintro ⟨hj, hfree⟩
    refine (Nat.lt_succ_iff_lt_or_eq.1 hj).symm.imp_right fun hj => ⟨?_, ?_⟩
    · refine (inWorkingSet_append le_rfl [mergedNode a b]).1 ⟨hj, fun m hkm hm => ?_⟩
      exact hfree m hkm (hm.trans (Nat.lt_succ_self _))
    · simpa only [hna, hnb] using hfree _ hk (Nat.lt_succ_self _) _ _ _ hmerged
  · rintro (rfl | ⟨hj, hja, hjb⟩)
    · refine ⟨Nat.lt_succ_self _, fun m _ hm f l r he => ?_⟩
      obtain ⟨hl, hr⟩ := childrenBefore_merge hc hlen ha hb m f l r he
      omega
    · obtain ⟨hlt, hfree⟩ := (inWorkingSet_append le_rfl [mergedNode a b]).2 hj
      refine ⟨hlt.trans (Nat.lt_succ_self _), fun m hkm hm f l r he => ?_⟩
      obtain hm | rfl := Nat.lt_succ_iff_lt_or_eq.1 hm
      · exact hfree m hkm hm f l r he
      · rw [hmerged] at he
        cases he
        rw [hna, hnb]
        exact ⟨hja, hjb⟩

/-- A key of the working set is the key of its entry. -/
theorem MergeInv.keyAt_idx {leaves arena : List Node} {work : List Key} (h : MergeInv leaves arena work)
    {c : Key} (hc : c ∈ work) : keyAt arena c.idx = c := by
  obtain ⟨e, he, hf⟩ := h.keys c hc
  simp only [keyAt, he, Option.map_some, Option.getD_some, hf]

/-- What holds between two merges of BUILD, with the order of R442 and R444. -/
structure MergeTrace (leaves arena : List Node) (work : List Key) : Prop
    extends MergeInv leaves arena work where
  leavesFirst : leaves <+: arena
  distinct : (work.map Key.idx).Nodup
  working : ∀ j, j ∈ work.map Key.idx ↔ inWorkingSet arena leaves.length arena.length j
  merges : ∀ n, leaves.length ≤ n → n < arena.length → MergesLeast arena leaves.length n

theorem MergeTrace.perm {leaves arena : List Node} {work work' : List Key}
    (h : MergeTrace leaves arena work) (hp : work.Perm work') : MergeTrace leaves arena work' where
  toMergeInv := h.toMergeInv.perm hp
  leavesFirst := h.leavesFirst
  distinct := (hp.map Key.idx).nodup_iff.1 h.distinct
  working := fun j => (hp.map Key.idx).mem_iff.symm.trans (h.working j)
  merges := h.merges

/-- Merging the two first keys of the working set is what R444 asks for, when they are the least ones. -/
theorem MergeTrace.mergesLeast {leaves arena : List Node} {a b : Key} {work : List Key}
    (h : MergeTrace leaves arena (a :: b :: work)) (hleaves : leaves.length ≤ 256)
    (hsum : (leaves.map fun e => e.freq.toNat).sum ≤ Config.freqMax)
    (hab : b.before a = false) (hleast : ∀ c ∈ work, c.before b = false) :
    MergesLeast (arena ++ [mergedNode a b]) leaves.length arena.length := by
  have hlength := h.length
  simp only [List.length_cons] at hlength
  have ha : a.idx < arena.length := h.idx_lt List.mem_cons_self
  have hb : b.idx < arena.length := h.idx_lt (List.mem_cons_of_mem _ List.mem_cons_self)
  have hna : (BitVec.ofNat 9 a.idx).toNat = a.idx := toNat_ofNat_nine (show _ ≤ 511 by omega)
  have hnb : (BitVec.ofNat 9 b.idx).toNat = b.idx := toNat_ofNat_nine (show _ ≤ 511 by omega)
  have hset : ∀ j, inWorkingSet (arena ++ [mergedNode a b]) leaves.length arena.length j ↔
      j ∈ (a :: b :: work).map Key.idx :=
    fun j => (inWorkingSet_append le_rfl _).trans (h.working j).symm
  have hkey : ∀ c ∈ a :: b :: work, keyAt (arena ++ [mergedNode a b]) c.idx = c := fun c hc =>
    (keyAt_append (h.idx_lt hc) _).trans (h.keyAt_idx hc)
  have hka := hkey a List.mem_cons_self
  have hkb := hkey b (List.mem_cons_of_mem _ List.mem_cons_self)
  have hne : a.idx ≠ b.idx := fun he => by simpa [he] using h.distinct
  refine ⟨_, _, _, List.getElem?_concat_length, ?left, ?right, ?order, ?least, ?sum⟩
  case left => rw [hna, hset]; simp
  case right => rw [hnb, hset]; simp
  case order =>
    rw [hna, hnb, hka, hkb]
    exact Key.before_of_not_before hne hab
  case least =>
    rw [hna, hnb, hkb]
    intro j hj hja hjb
    obtain ⟨c, hc, rfl⟩ := List.mem_map.1 ((hset j).1 hj)
    rw [hkey c hc]
    obtain rfl | hc := List.mem_cons.1 hc
    · exact absurd rfl hja
    obtain rfl | hc := List.mem_cons.1 hc
    · exact absurd rfl hjb
    exact Key.before_of_not_before hjb.symm (hleast c hc)
  case sum =>
    have hmerged := (h.toMergeInv.merge hleaves hsum).keyAt_idx List.mem_cons_self
    rw [hna, hnb, hka, hkb]
    simpa [keyAt, mergedNode, Node.freq] using hmerged

/-- A merge of the two least keys keeps the trace. -/
theorem MergeTrace.merge {leaves arena : List Node} {a b : Key} {work : List Key}
    (h : MergeTrace leaves arena (a :: b :: work)) (hleaves : leaves.length ≤ 256)
    (hsum : (leaves.map fun e => e.freq.toNat).sum ≤ Config.freqMax)
    (hab : b.before a = false) (hleast : ∀ c ∈ work, c.before b = false) :
    MergeTrace leaves (arena ++ [mergedNode a b]) (⟨a.freq + b.freq, arena.length⟩ :: work) := by
  have hlength := h.length
  simp only [List.length_cons] at hlength
  obtain ⟨hadistinct, hbdistinct, hdistinct⟩ : a.idx ∉ (b :: work).map Key.idx ∧
      b.idx ∉ work.map Key.idx ∧ (work.map Key.idx).Nodup := by
    simpa only [List.map_cons, List.nodup_cons] using h.distinct
  have hset := inWorkingSet_merge h.childrenBefore h.leavesFirst.length_le (show _ < 511 by omega)
    (h.idx_lt List.mem_cons_self) (h.idx_lt (List.mem_cons_of_mem _ List.mem_cons_self))
  constructor
  case toMergeInv => exact h.toMergeInv.merge hleaves hsum
  case leavesFirst => exact h.leavesFirst.trans ⟨_, rfl⟩
  case distinct =>
    refine List.nodup_cons.2 ⟨fun hmem => ?_, hdistinct⟩
    obtain ⟨c, hc, hidx⟩ := List.mem_map.1 hmem
    have hlt : c.idx < arena.length := h.idx_lt (List.mem_cons_of_mem _ (List.mem_cons_of_mem _ hc))
    exact absurd hidx hlt.ne
  case working =>
    intro j
    rw [hset j, ← h.working j]
    simp only [List.map_cons, List.mem_cons] at hadistinct ⊢
    refine or_congr_right ⟨fun hj => ⟨.inr (.inr hj), ?_, ?_⟩, ?_⟩
    · rintro rfl
      exact hadistinct (.inr hj)
    · rintro rfl
      exact hbdistinct hj
    · rintro ⟨rfl | rfl | hj, hja, hjb⟩
      · exact absurd rfl hja
      · exact absurd rfl hjb
      · exact hj
  case merges =>
    intro n hkn hn
    rw [List.length_append, List.length_singleton] at hn
    obtain hn | rfl := Nat.lt_succ_iff_lt_or_eq.1 hn
    · exact (h.merges n hkn hn).append _
    · exact h.mergesLeast hleaves hsum hab hleast

/-- All merges of BUILD keep the trace: each takes the least key twice. -/
theorem MergeTrace.mergeAll {leaves arena : List Node} {work : List Key} (h : MergeTrace leaves arena work)
    (hleaves : leaves.length ≤ 256) (hsum : (leaves.map fun e => e.freq.toNat).sum ≤ Config.freqMax)
    (merges : Nat) : ∃ work', MergeTrace leaves (mergeAll merges arena work) work' := by
  induction merges generalizing arena work with
  | zero => exact ⟨work, h⟩
  | succ merges ih =>
    rcases h1 : takeLeast work with _ | ⟨a, work1⟩
    · exact ⟨work, by simpa only [Machine.mergeAll, h1] using h⟩
    obtain ⟨hp1, hleast1⟩ := takeLeast_spec h1
    rcases h2 : takeLeast work1 with _ | ⟨b, work2⟩
    · exact ⟨work, by simpa only [Machine.mergeAll, h1, h2] using h⟩
    obtain ⟨hp2, hleast2⟩ := takeLeast_spec h2
    rw [mergeAll_of_two h1 h2]
    exact ih ((h.perm (hp1.trans (hp2.cons a))).merge hleaves hsum
      (hleast1 b (hp2.mem_iff.2 List.mem_cons_self)) hleast2)

/-- Before the first merge the working set is all leaves (R443). -/
theorem mergeTrace_leaves {leaves : List Node} (h : MergeInv leaves leaves (leafKeys leaves)) :
    MergeTrace leaves leaves (leafKeys leaves) where
  toMergeInv := h
  leavesFirst := ⟨[], List.append_nil _⟩
  distinct := by rw [map_idx_leafKeys]; exact List.nodup_range
  working := fun j => by
    rw [map_idx_leafKeys, List.mem_range]
    exact ⟨fun hj => ⟨hj, fun m hkm hm => absurd hm hkm.not_gt⟩, And.left⟩
  merges := fun n hkn hn => absurd hn hkn.not_gt

theorem leaf_of_mem_leafNodes {s : State} {e : Node} (he : e ∈ leafNodes s) :
    ∃ sym f, f ≠ 0#32 ∧ e = .leaf sym f := by
  rw [leafNodes_eq] at he
  obtain ⟨sym, hsym, rfl⟩ := List.mem_map.1 he
  exact ⟨sym, s.freqAt sym, by simpa using (List.mem_filter.1 hsym).2, rfl⟩

/-- Under the law every sum of counts fits a word (R447). -/
theorem sum_leafNodes_le {s : State} (hf : FreqLaw s) :
    ((leafNodes s).map fun e => e.freq.toNat).sum ≤ Config.freqMax := by
  rw [sum_leafNodes, ← hf]
  exact Nat.le_of_lt_succ s.total.isLt

/-- The entries that BUILD makes are the leaves, then merges of the two least keys each. -/
theorem mergeTrace_built {s : State} (hf : FreqLaw s) (hne : leafNodes s ≠ []) :
    ∃ work, MergeTrace (leafNodes s) (builtArena (leafNodes s)) work :=
  (mergeTrace_leaves (mergeInv_leaves hne (leafNodes_length_le s) fun _ => leaf_of_mem_leafNodes)).mergeAll
    (leafNodes_length_le s) (sum_leafNodes_le hf) _

/-- Settles O29: BUILD loads the arena of its merges, whose trace gives the leaves and every later entry. -/
theorem buildMergesTheTwoLeastNodes : Obligations.BuildMergesTheTwoLeastNodes := by
  intro s hf htotal
  have hne := leafNodes_ne_nil hf htotal
  obtain ⟨work, htrace⟩ := mergeTrace_built hf hne
  have hk : (leafNodes s).length = (countedSymbols s).length := by rw [leafNodes_eq, List.length_map]
  have hlength := length_builtArena hf hne
  refine ⟨builtState s, exec_build_of_count hf htotal, ?_⟩
  dsimp only
  rw [arena_builtState hf hne, nnodes_builtState hf hne, root_builtState hf hne, hlength, ← hk]
  refine ⟨?nleaves, rfl, Nat.sub_sub .., ?leaves, fun n hkn hn => htrace.merges n hkn (hlength ▸ hn)⟩
  case nleaves => exact toNat_ofNat_nine ((leafNodes_length_le s).trans (by decide))
  case leaves =>
    intro i sym hi
    obtain ⟨more, hmore⟩ := htrace.leavesFirst
    rw [← hmore]
    refine getElem?_append_of_eq_some ?_ more
    rw [leafNodes_eq, List.getElem?_map, hi, Option.map_some]

end Machine
end Sys2Proof

namespace Sys2Proof
namespace Machine

/-! ### Reading a slice of a code -/

/-- R466: bit `31 - k` of the word CODE_READ returns is bit `32j + k` of the code, 0 beyond it. -/
theorem getLsbD_codeSlice (bits : List Bool) (j : Nat) {k : Nat} (hk : k < 32) :
    (codeSlice bits j).getLsbD (31 - k) = bits.getD (32 * j + k) false := by
  have hback : 31 - (31 - k) = k := by omega
  rw [codeSlice, getLsbD_packBits _ (by omega), hback, List.getElem?_take_of_lt hk, List.getElem?_drop,
    List.getD_eq_getElem?_getD]

/-- Settles O35: CODE_READ completes on the state it finds, with the packed slice as RESULT0. -/
theorem codeReadReadsOneSlice : Obligations.CodeReadReadsOneSlice := fun s sym wrd =>
  ⟨complete 0x31#8 (codeSlice (s.codeAt sym) wrd.toNat) (word (s.codeAt sym).length) s, rfl,
    fun _ hk => getLsbD_codeSlice _ _ hk, complete_reports .., complete_eq_withReport ..⟩

/-! ### The paths and codes of a tree value -/

@[simp] theorem HTree.nil_notMem_paths_node (sym : Byte) (f : Word) (l r : HTree) :
    (sym, []) ∉ (HTree.node f l r).paths := by
  simp [HTree.paths]

/-- A path of an internal node goes on in the child that its first label names (R462). -/
@[simp] theorem HTree.cons_mem_paths_node (sym : Byte) (f : Word) (l r : HTree) (b : Bool) (bs : List Bool) :
    (sym, b :: bs) ∈ (HTree.node f l r).paths ↔ (sym, bs) ∈ (if b then r else l).paths := by
  cases b <;> simp [HTree.paths]

theorem HTree.map_fst_paths (t : HTree) : t.paths.map Prod.fst = t.symbols := by
  induction t with
  | leaf sym f => rfl
  | node f l r ihl ihr => simp [HTree.paths, HTree.symbols, ← ihl, ← ihr, Function.comp_def]

theorem HTree.map_fst_codes (t : HTree) : t.codes.map Prod.fst = t.symbols := by
  cases t with
  | leaf sym f => rfl
  | node f l r => exact (HTree.node f l r).map_fst_paths

theorem HTree.one_le_leaves (t : HTree) : 1 ≤ t.leaves := by
  induction t with
  | leaf sym f => exact Nat.le_refl 1
  | node f l r ihl ihr => exact ihl.trans (Nat.le_add_right ..)

/-- At each internal node on a path there is a leaf off the path (R463). -/
theorem HTree.length_lt_leaves_of_mem_paths {t : HTree} {sym : Byte} {p : List Bool}
    (h : (sym, p) ∈ t.paths) : p.length < t.leaves := by
  induction t generalizing p with
  | leaf sym' f => simp_all [HTree.paths, HTree.leaves]
  | node f l r ihl ihr =>
    have hl := l.one_le_leaves
    have hr := r.one_le_leaves
    rcases p with _ | ⟨b, bs⟩
    · simp at h
    rw [HTree.cons_mem_paths_node] at h
    simp only [List.length_cons, HTree.leaves]
    cases b with
    | false => have := ihl h; omega
    | true => have := ihr h; omega

theorem HTree.ne_nil_of_mem_codes {t : HTree} {sym : Byte} {p : List Bool} (h : (sym, p) ∈ t.codes) :
    p ≠ [] := by
  rintro rfl
  cases t with
  | leaf sym' f => simp [HTree.codes] at h
  | node f l r => exact HTree.nil_notMem_paths_node sym f l r h

theorem HTree.length_le_leaves_of_mem_codes {t : HTree} {sym : Byte} {p : List Bool}
    (h : (sym, p) ∈ t.codes) : p.length ≤ t.leaves := by
  cases t with
  | leaf sym' f => simp_all [HTree.codes, HTree.leaves]
  | node f l r => exact (HTree.length_lt_leaves_of_mem_paths h).le

/-- A path to a leaf goes on to no other node (R465). -/
theorem HTree.paths_prefixFree {t : HTree} {a b : Byte} {p q : List Bool} (ha : (a, p) ∈ t.paths)
    (hb : (b, q) ∈ t.paths) (hpq : p <+: q) : a = b := by
  induction t generalizing p q with
  | leaf sym f => simp_all [HTree.paths]
  | node f l r ihl ihr =>
    rcases p with _ | ⟨c, p⟩
    · simp at ha
    rcases q with _ | ⟨d, q⟩
    · simp at hb
    obtain ⟨rfl, hchild⟩ := List.cons_prefix_cons.1 hpq
    rw [HTree.cons_mem_paths_node] at ha hb
    cases c with
    | false => exact ihl ha hb hchild
    | true => exact ihr ha hb hchild

theorem HTree.codes_prefixFree {t : HTree} {a b : Byte} {p q : List Bool} (ha : (a, p) ∈ t.codes)
    (hb : (b, q) ∈ t.codes) (hpq : p <+: q) : a = b := by
  cases t with
  | leaf sym f => simp_all [HTree.codes]
  | node f l r => exact HTree.paths_prefixFree ha hb hpq

/-! ### The code table -/

theorem codeTable_concat (codes : List (Byte × List Bool)) (sym : Byte) (p : List Bool) :
    codeTable (codes ++ [(sym, p)]) = (codeTable codes).set sym.toNat p sym.isLt := by
  simp [codeTable]

/-- A table made of a list that names no symbol twice has the listed codes and no others. -/
theorem codeTable_eq_iff {codes : List (Byte × List Bool)} (hd : (codes.map Prod.fst).Nodup) (sym : Byte)
    {p : List Bool} (hp : p ≠ []) :
    (codeTable codes)[sym.toNat]'sym.isLt = p ↔ (sym, p) ∈ codes := by
  induction codes using List.reverseRecOn with
  | nil => simpa [codeTable] using hp.symm
  | append_singleton codes c ih =>
    obtain ⟨sym', p'⟩ := c
    rw [List.map_append, List.nodup_append] at hd
    obtain ⟨hd, -, hnew⟩ := hd
    rw [codeTable_concat, Vector.getElem_set, List.mem_append, List.mem_singleton, Prod.mk.injEq]
    by_cases h : sym = sym'
    · subst h
      have hnot : (sym, p) ∉ codes := fun hmem =>
        hnew sym (List.mem_map_of_mem (f := Prod.fst) hmem) sym (by simp) rfl
      simp [hnot, eq_comm]
    · have hne : sym'.toNat ≠ sym.toNat := fun e => h (BitVec.eq_of_toNat_eq e.symm)
      simp [hne, h, ih hd]

theorem foldl_max_length_le_iff (l : List (List Bool)) (m n : Nat) :
    l.foldl (fun m bits => max m bits.length) m ≤ n ↔ m ≤ n ∧ ∀ bits ∈ l, bits.length ≤ n := by
  induction l generalizing m with
  | nil => simp
  | cons bits l ih => simp [ih, and_assoc]

/-- The longest LEN is the least bound of every LEN (R461). -/
theorem longestCode_le_iff (table : Vector (List Bool) 256) (n : Nat) :
    longestCode table ≤ n ↔ ∀ sym : Byte, (table[sym.toNat]'sym.isLt).length ≤ n := by
  rw [longestCode, foldl_max_length_le_iff]
  constructor
  · exact fun h sym => h.2 _ (Vector.mem_toList_iff.2 (Vector.getElem_mem sym.isLt))
  · refine fun h => ⟨Nat.zero_le n, fun bits hbits => ?_⟩
    obtain ⟨i, hi, rfl⟩ := Vector.mem_iff_getElem.1 (Vector.mem_toList_iff.1 hbits)
    simpa [Nat.mod_eq_of_lt hi] using h (BitVec.ofNat 8 i)

theorem length_le_longestCode (table : Vector (List Bool) 256) (sym : Byte) :
    (table[sym.toNat]'sym.isLt).length ≤ longestCode table :=
  (longestCode_le_iff table _).1 (Nat.le_refl _) sym

theorem exists_length_eq_longestCode (table : Vector (List Bool) 256) :
    ∃ sym : Byte, (table[sym.toNat]'sym.isLt).length = longestCode table := by
  by_contra hnone
  have hlt (sym : Byte) : (table[sym.toNat]'sym.isLt).length < longestCode table :=
    lt_of_le_of_ne (length_le_longestCode table sym) fun heq => hnone ⟨sym, heq⟩
  have hpos := Nat.zero_lt_of_lt (hlt 0#8)
  have hle := (longestCode_le_iff table (longestCode table - 1)).2 fun sym => Nat.le_sub_one_of_lt (hlt sym)
  omega

/-! ### The tree of a lawful arena -/

theorem children_lt_of_nodeLawful {arena : List Node} {f : Word} {l r : NodeIdx}
    (h : nodeLawful arena (.inner f l r) = true) : l.toNat < arena.length ∧ r.toNat < arena.length := by
  rcases hl : arena[l.toNat]? with _ | a
  · simp [nodeLawful, hl] at h
  rcases hr : arena[r.toNat]? with _ | b
  · simp [nodeLawful, hr] at h
  exact ⟨(List.getElem?_eq_some_iff.1 hl).1, (List.getElem?_eq_some_iff.1 hr).1⟩

theorem reach_length_pos (arena : List Node) (d : Nat) (i : NodeIdx) :
    0 < d → 0 < (reach arena d i).length := by
  cases d <;> simp [reach]

/-- Where every child is an entry, a walk that gives no tree has gone down to its depth bound, past an internal
node with two children on each level but the last. -/
theorem readTree_ok_or_long_reach {arena : List Node} (hlaw : ∀ e ∈ arena, nodeLawful arena e = true)
    (d : Nat) {i : NodeIdx} (hi : i.toNat < arena.length) :
    (∃ t, readTree arena d i = .ok t) ∨ 2 * d - 1 ≤ (reach arena d i).length := by
  induction d generalizing i with
  | zero => exact .inr (Nat.zero_le _)
  | succ d ih =>
    rcases he : arena[i.toNat]? with _ | ⟨sym, f⟩ | ⟨f, l, r⟩
    · exact absurd (List.getElem?_eq_none_iff.1 he) (Nat.not_le.2 hi)
    · exact .inl ⟨.leaf sym f, by rw [readTree, he]⟩
    · obtain ⟨hl, hr⟩ := children_lt_of_nodeLawful (hlaw _ (List.mem_of_getElem? he))
      have hlpos := reach_length_pos arena d l
      have hrpos := reach_length_pos arena d r
      have hlen : (reach arena (d + 1) i).length =
          (reach arena d l).length + (reach arena d r).length + 1 := by
        rw [reach_of_inner he, List.length_cons, List.length_append]
      rcases ih hl with ⟨tl, htl⟩ | hlong
      · rcases ih hr with ⟨tr, htr⟩ | hlong
        · exact .inl ⟨.node f tl tr, by simp only [readTree, he, htl, htr]⟩
        · right; omega
      · right; omega

theorem follow_cons_of_leaf {arena : List Node} {i : NodeIdx} {sym : Byte} {f : Word}
    (h : arena[i.toNat]? = some (.leaf sym f)) (b : Bool) (bs : List Bool) :
    follow arena i (b :: bs) = none := by
  rw [follow, h]

theorem follow_cons_of_inner {arena : List Node} {i l r : NodeIdx} {f : Word}
    (h : arena[i.toNat]? = some (.inner f l r)) (b : Bool) (bs : List Bool) :
    follow arena i (b :: bs) = follow arena (if b then r else l) bs := by
  rw [follow, h]

/-- The paths of a tree read out of the arena are the paths in the arena that lead to its leaves. -/
theorem mem_paths_iff_follow {arena : List Node} {d : Nat} {i : NodeIdx} {t : HTree}
    (h : readTree arena d i = .ok t) (sym : Byte) (p : List Bool) :
    (sym, p) ∈ t.paths ↔ ∃ g, follow arena i p = some (.leaf sym g) := by
  induction d generalizing i t p with
  | zero => cases h
  | succ d ih =>
    obtain ⟨sym', f, he, rfl⟩ | ⟨f, l, r, tl, tr, he, hl, hr, rfl⟩ := readTree_cases h <;>
      rcases p with _ | ⟨b, bs⟩
    · simp [HTree.paths, follow, he, eq_comm]
    · simp [HTree.paths, follow_cons_of_leaf he]
    · simp [follow, he]
    · rw [HTree.cons_mem_paths_node, follow_cons_of_inner he]
      cases b with
      | false => exact ih hl bs
      | true => exact ih hr bs

/-- The entries that a walk meets, in pre-order. -/
def reachedEntries (arena : List Node) (d : Nat) (i : NodeIdx) : List Node :=
  (reach arena d i).filterMap fun n => arena[n]?

theorem reachedEntries_of_leaf {arena : List Node} {i : NodeIdx} {sym : Byte} {f : Word}
    (h : arena[i.toNat]? = some (.leaf sym f)) (d : Nat) :
    reachedEntries arena (d + 1) i = [.leaf sym f] := by
  simp [reachedEntries, reach_of_leaf h, h]

theorem reachedEntries_of_inner {arena : List Node} {i l r : NodeIdx} {f : Word}
    (h : arena[i.toNat]? = some (.inner f l r)) (d : Nat) :
    reachedEntries arena (d + 1) i =
      .inner f l r :: (reachedEntries arena d l ++ reachedEntries arena d r) := by
  simp [reachedEntries, reach_of_inner h, h]

/-- The leaves that a walk meets carry the symbols of the tree that it reads. -/
theorem symbols_of_reachedEntries {arena : List Node} {d : Nat} {i : NodeIdx} {t : HTree}
    (h : readTree arena d i = .ok t) :
    ((reachedEntries arena d i).filter Node.isLeaf).map Node.symbol = t.symbols := by
  induction d generalizing i t with
  | zero => cases h
  | succ d ih =>
    obtain ⟨sym, f, he, rfl⟩ | ⟨f, l, r, tl, tr, he, hl, hr, rfl⟩ := readTree_cases h
    · rw [reachedEntries_of_leaf he]
      rfl
    · simp [reachedEntries_of_inner he, HTree.symbols, Node.isLeaf, ih hl, ih hr]

theorem filterMap_getElem?_range {α : Type} (l : List α) :
    ((List.range l.length).filterMap fun n => l[n]?) = l := by
  induction l with
  | nil => rfl
  | cons a l ih => simpa [List.range_succ_eq_map, List.filterMap_map, Function.comp_def] using ih

section
variable {s : State} (h : TreeLaw s)
include h

theorem TreeLaw.arena_length : s.arena.length = s.nnodes.toNat := by
  have hstored := h.stored
  rw [State.arena, List.length_take]
  omega

/-- R144 (b): the walk from ROOT meets every entry once. -/
theorem TreeLaw.reachedEntries_perm : (reachedEntries s.arena Config.maxNodes s.root).Perm s.arena := by
  have hperm := h.reachedOnce.filterMap fun n => s.arena[n]?
  rwa [← h.arena_length, filterMap_getElem?_range] at hperm

/-- Under R144 the walk from ROOT reads a tree: a walk as long as its depth bound would meet more entries than
there are. -/
theorem TreeLaw.exists_tree : ∃ t, s.tree = .ok t := by
  refine (readTree_ok_or_long_reach h.lawful Config.maxNodes ?_).resolve_right fun hlong => ?_
  · rw [h.arena_length]; exact h.rootInside
  · have hlong : 2 * 511 - 1 ≤ s.nnodes.toNat := by
      rwa [h.reachedOnce.length_eq, List.length_range] at hlong
    have := s.nnodes.isLt
    omega

variable {t : HTree} (ht : s.tree = .ok t)
include ht

theorem TreeLaw.symbols_perm : t.symbols.Perm ((s.arena.filter Node.isLeaf).map Node.symbol) := by
  rw [← symbols_of_reachedEntries ht]
  exact (h.reachedEntries_perm.filter _).map _

theorem TreeLaw.symbols_nodup : t.symbols.Nodup := h.symbols_perm ht |>.nodup_iff.2 h.symbolsDistinct

theorem TreeLaw.leaves_eq : t.leaves = s.nleaves.toNat := by
  rw [← t.symbols_length, (h.symbols_perm ht).length_eq, List.length_map, h.leavesCounted]

theorem TreeLaw.mem_symbols_of_leaf {sym : Byte} {f : Word} (hmem : Node.leaf sym f ∈ s.arena) :
    sym ∈ t.symbols :=
  (h.symbols_perm ht).mem_iff.2 (List.mem_map.2 ⟨_, List.mem_filter.2 ⟨hmem, rfl⟩, rfl⟩)

end

/-- Settles O34: the path is one of the tree that the walk from ROOT reads, which has a leaf off it for each of
its edges; the empty path leads to a leaf only in a tree of one leaf. -/
theorem leafDepthIsBounded : Obligations.LeafDepthIsBounded := by
  intro s p sym f h hk hp
  obtain ⟨t, ht⟩ := h.exists_tree
  have hleaves := h.leaves_eq ht
  have hpath := (mem_paths_iff_follow ht sym p).2 ⟨f, hp⟩
  have hlt := HTree.length_lt_leaves_of_mem_paths hpath
  obtain ⟨-, -, hmax⟩ := h.counts
  refine ⟨?_, by omega, by omega⟩
  cases t with
  | leaf sym' f' => simp only [HTree.leaves] at hleaves; omega
  | node f' l r =>
    exact List.length_pos_of_ne_nil fun hnil => HTree.nil_notMem_paths_node _ _ _ _ (hnil ▸ hpath)

/-! ### GEN_CODES -/

/-- The state in which GEN_CODES completes, when the loaded tree is `t` (R461). -/
def codedState (s : State) (t : HTree) : State :=
  complete 0x30#8 (zext32 s.nleaves) (word (longestCode (codeTable t.codes)))
    { s with code := codeTable t.codes, codesValid := true }

theorem exec_genCodes_of_no_tree {s : State} (hv : s.treeValid = false) :
    exec .genCodes s = .next (raisedState .noTree 0#32 0x30#8 s) := by
  rw [exec, execGenCodes, if_pos hv, raise_eq_raisedState]

theorem exec_genCodes_of_tree {s : State} {t : HTree} (hv : s.treeValid = true) (ht : s.tree = .ok t) :
    exec .genCodes s = .next (codedState s t) := by
  simp [exec, execGenCodes, hv, ht, codedState]

/-- R464: the placeholder code of a degenerate tree. -/
theorem codes_of_root_leaf {s : State} {t : HTree} (ht : s.tree = .ok t) {sym : Byte} {f : Word}
    (hroot : s.nodeAt s.root = some (.leaf sym f)) : t.codes = [(sym, [false])] := by
  have hpath := (mem_paths_iff_follow ht sym []).2 ⟨f, hroot⟩
  cases t with
  | leaf sym' f' => simp_all [HTree.paths, HTree.codes]
  | node f' l r => exact absurd hpath (HTree.nil_notMem_paths_node sym f' l r)

theorem codes_of_root_inner {s : State} {t : HTree} (ht : s.tree = .ok t) {f : Word} {l r : NodeIdx}
    (hroot : s.nodeAt s.root = some (.inner f l r)) : t.codes = t.paths := by
  cases t with
  | leaf sym f' =>
    obtain ⟨g, hleaf⟩ := (mem_paths_iff_follow ht sym []).1 List.mem_cons_self
    cases hroot.symm.trans hleaf
  | node f' l r => rfl

section
variable {s : State} {t : HTree} (h : TreeLaw s) (ht : s.tree = .ok t)
include h ht

/-- The codes that GEN_CODES leaves are those of the tree (R461). -/
theorem codeAt_codedState_eq_iff (sym : Byte) {p : List Bool} (hp : p ≠ []) :
    (codedState s t).codeAt sym = p ↔ (sym, p) ∈ t.codes :=
  codeTable_eq_iff (by rw [t.map_fst_codes]; exact h.symbols_nodup ht) sym hp

theorem mem_codes_of_codeAt_ne_nil {sym : Byte} (hne : (codedState s t).codeAt sym ≠ []) :
    (sym, (codedState s t).codeAt sym) ∈ t.codes :=
  (codeAt_codedState_eq_iff h ht sym hne).1 rfl

/-- No LEN is above NLEAVES, so the longest fits RESULT1. -/
theorem toNat_result1_codedState :
    (codedState s t).result1.toNat = longestCode (codeTable t.codes) := by
  obtain ⟨sym, hsym⟩ := exists_length_eq_longestCode (codeTable t.codes)
  have hle : longestCode (codeTable t.codes) ≤ s.nleaves.toNat := by
    rw [← hsym, ← h.leaves_eq ht]
    rcases eq_or_ne ((codedState s t).codeAt sym) [] with hnil | hne
    · exact (congrArg List.length hnil).trans_le (Nat.zero_le _)
    · exact HTree.length_le_leaves_of_mem_codes (mem_codes_of_codeAt_ne_nil h ht hne)
  have := s.nleaves.isLt
  exact Nat.mod_eq_of_lt (by omega)

end

/-- Settles O32: GEN_CODES stores the codes of the tree that the walk from ROOT reads, whose paths are the
paths in the arena. -/
theorem genCodesGivesRootToLeafPaths : Obligations.GenCodesGivesRootToLeafPaths := by
  refine fun s => ⟨exec_genCodes_of_no_tree, fun hv h => ?_⟩
  obtain ⟨t, ht⟩ := h.exists_tree
  have hlongest := toNat_result1_codedState h ht
  refine ⟨codedState s t, exec_genCodes_of_tree hv ht, rfl, ?degenerate, ?internal, complete_reports ..,
    fun sym => ?bound, ?attained, rfl⟩
  case degenerate =>
    intro sym f hroot u
    have hcodes := codes_of_root_leaf ht hroot
    split_ifs with hu
    · rw [codeAt_codedState_eq_iff h ht u (List.cons_ne_nil false []), hcodes, hu]
      exact List.mem_singleton_self _
    · by_contra hne
      have hmem := mem_codes_of_codeAt_ne_nil h ht hne
      rw [hcodes, List.mem_singleton] at hmem
      exact hu (congrArg Prod.fst hmem)
  case internal =>
    intro f l r hroot sym p
    rw [← mem_paths_iff_follow ht, ← codes_of_root_inner ht hroot]
    exact ⟨fun ⟨hp, hcode⟩ => (codeAt_codedState_eq_iff h ht sym hp).1 hcode, fun hmem =>
      have hp := HTree.ne_nil_of_mem_codes hmem
      ⟨hp, (codeAt_codedState_eq_iff h ht sym hp).2 hmem⟩⟩
  case bound => rw [hlongest]; exact length_le_longestCode _ sym
  case attained => rw [hlongest]; exact exists_length_eq_longestCode _

/-- Settles O33: the codes are those of the tree, where every symbol of a leaf has one and none is a prefix of
another. -/
theorem codesArePrefixFree : Obligations.CodesArePrefixFree := by
  intro s u hv h hu
  obtain ⟨t, ht⟩ := h.exists_tree
  obtain rfl : codedState s t = u := by simpa [exec_genCodes_of_tree hv ht] using hu
  refine ⟨fun sym f hmem => ?_, fun a b hab ha hb hpre => hab ?_⟩
  · have hsym := h.mem_symbols_of_leaf ht hmem
    rw [← t.map_fst_codes] at hsym
    obtain ⟨⟨_, p⟩, hcode, rfl⟩ := List.mem_map.1 hsym
    have hp := HTree.ne_nil_of_mem_codes hcode
    rw [(codeAt_codedState_eq_iff h ht _ hp).2 hcode]
    exact List.length_pos_of_ne_nil hp
  · exact HTree.codes_prefixFree (mem_codes_of_codeAt_ne_nil h ht ha) (mem_codes_of_codeAt_ne_nil h ht hb) hpre

end Machine
end Sys2Proof

namespace Sys2Proof
namespace Machine

/-! ### The Encoder commands -/

/-- Settles O36: both complete on the state with two fields restarted. -/
theorem encClearAndDecResetRestart : Obligations.EncClearAndDecResetRestart := fun s =>
  ⟨⟨complete 0x40#8 0#32 0#32 { s with obuf := [], encBits := 0#32 }, rfl, complete_reports .., rfl⟩,
    ⟨complete 0x50#8 (zext32 s.root) 0#32 { s with decNode := s.root, decCount := 0#32 }, rfl,
      complete_reports .., rfl⟩⟩

/-- The state in which ENC_SYM completes (R482). -/
def encodedState (s : State) (sym : Byte) : State :=
  complete 0x41#8 (word (s.codeAt sym).length) (word (s.obuf ++ s.codeAt sym).length)
    { s with obuf := s.obuf ++ s.codeAt sym, encBits := s.encBits + word (s.codeAt sym).length }

theorem exec_encSym_of_no_code {s : State} {sym : Byte} (hcode : s.codeAt sym = []) :
    exec (.encSym sym) s = .next (raisedState .unknownSymbol (zext32 sym) 0x41#8 s) := by
  rw [exec, execEncSym, if_pos (List.length_eq_zero_iff.2 hcode), raise_eq_raisedState]

theorem exec_encSym_of_gt {s : State} {sym : Byte} (hcode : s.codeAt sym ≠ [])
    (hfull : s.params.obufBits < s.obuf.length + (s.codeAt sym).length) :
    exec (.encSym sym) s = .next (raisedState .obufFull (word (s.codeAt sym).length) 0x41#8 s) := by
  rw [exec, execEncSym, if_neg (mt List.length_eq_zero_iff.1 hcode), if_pos hfull, raise_eq_raisedState]

theorem exec_encSym_of_le {s : State} {sym : Byte} (hcode : s.codeAt sym ≠ [])
    (hfits : s.obuf.length + (s.codeAt sym).length ≤ s.params.obufBits) :
    exec (.encSym sym) s = .next (encodedState s sym) := by
  rw [exec, execEncSym, if_neg (mt List.length_eq_zero_iff.1 hcode), if_neg (Nat.not_lt.2 hfits),
    encodedState]

/-- Settles O37: the three cases are the branches of ENC_SYM, in the order of the checks. -/
theorem encSymAppendsTheCode : Obligations.EncSymAppendsTheCode := fun s sym =>
  ⟨exec_encSym_of_no_code, exec_encSym_of_gt, fun hcode hfits =>
    ⟨encodedState s sym, exec_encSym_of_le hcode hfits, rfl, rfl, complete_reports .., rfl⟩⟩

/-- The state in which OUT_POP completes (R486). -/
def poppedState (s : State) : State :=
  complete 0x42#8 (packBits (s.obuf.take (min 32 s.obuf.length))) (word (min 32 s.obuf.length))
    { s with obuf := s.obuf.drop (min 32 s.obuf.length) }

theorem exec_outPop (s : State) : exec .outPop s = .next (poppedState s) := rfl

/-- The bits in RESULT0 and those left in OBUF are the old OBUF. -/
theorem unpackBits_result0_poppedState (s : State) :
    unpackBits (poppedState s).result0 (min 32 s.obuf.length) ++ (poppedState s).obuf = s.obuf := by
  have hlen := List.length_take_of_le (Nat.min_le_right 32 s.obuf.length)
  have hunpack := unpackBits_packBits (s.obuf.take (min 32 s.obuf.length)) (by omega)
  rw [hlen] at hunpack
  exact (congrArg (· ++ _) hunpack).trans (List.take_append_drop _ _)

/-- Settles O38: OUT_POP splits OBUF after `min 32 (length)` bits and packs the first part. -/
theorem outPopRemovesTheOldestBits : Obligations.OutPopRemovesTheOldestBits := by
  refine fun s => ⟨poppedState s, exec_outPop s, ⟨unpackBits_result0_poppedState s, List.length_drop,
    fun b hb => packBits_unused_bits _ ?_, complete_reports ..⟩, rfl⟩
  rwa [List.length_take_of_le (Nat.min_le_right ..)]

/-! ### Encoding a sequence -/

/-- What an ENC_SYM that succeeds does to OBUF and ENC_BITS. -/
theorem encSym_of_ok {s u : State} {sym : Byte} (h : exec (.encSym sym) s = .next u)
    (hok : u.lastErr = .ok) :
    u.obuf = s.obuf ++ s.codeAt sym ∧ u.encBits = s.encBits + word (s.codeAt sym).length ∧
      u.codeAt = s.codeAt := by
  obtain ⟨e, info, v, he, -, rfl⟩ | ⟨r0, r1, v, ⟨-, rfl⟩, rfl⟩ := exec_cases h
  · exact absurd hok he
  · exact ⟨rfl, rfl, rfl⟩

/-- RESULT1 counts the bits in RESULT0, so the host takes exactly the bits that have left OBUF. -/
theorem poppedBy_outPop_append (s : State) :
    poppedBy .outPop (poppedState s) ++ (poppedState s).obuf = s.obuf := by
  have hcount : (poppedState s).result1.toNat = min 32 s.obuf.length :=
    Nat.mod_eq_of_lt (by omega)
  rw [poppedBy, if_pos rfl, hcount, unpackBits_result0_poppedState]

/-- The concatenated codes of the symbols that some commands encode. -/
def encodedBits (s : State) (is : List Instr) : List Bool := (encodedSymbols is).flatMap s.codeAt

theorem encodedBits_cons (s : State) (i : Instr) (is : List Instr) :
    encodedBits s (i :: is) = encodedBits s [i] ++ encodedBits s is := by
  rw [encodedBits, encodedSymbols, ← List.singleton_append, List.filterMap_append, List.flatMap_append]
  rfl

theorem encodedBits_encSym (s : State) (sym : Byte) : encodedBits s [.encSym sym] = s.codeAt sym :=
  List.append_nil _

theorem encodedBits_congr {s u : State} (h : u.codeAt = s.codeAt) (is : List Instr) :
    encodedBits u is = encodedBits s is := by
  rw [encodedBits, h, encodedBits]

/-- One ENC_SYM or OUT_POP that succeeds: the bits it pops, followed by the new OBUF, are the old OBUF
followed by the code it encodes. -/
theorem encodeStep {s u : State} {i : Instr} (hi : i = .outPop ∨ ∃ sym, i = .encSym sym)
    (h : exec i s = .next u) (hok : u.lastErr = .ok) :
    poppedBy i u ++ u.obuf = s.obuf ++ encodedBits s [i] ∧
      u.encBits = s.encBits + word (encodedBits s [i]).length ∧ u.codeAt = s.codeAt := by
  obtain rfl | ⟨sym, rfl⟩ := hi
  · obtain rfl : poppedState s = u := Host.Outcome.next.inj h
    exact ⟨(poppedBy_outPop_append s).trans (List.append_nil _).symm, (BitVec.add_zero _).symm, rfl⟩
  · rw [encodedBits_encSym, poppedBy, if_neg nofun]
    exact encSym_of_ok h hok

/-- A run that succeeds has a first command that succeeds and a rest that does. -/
theorem encodeRun_cons_eq_some {i : Instr} {is : List Instr} {s t : State} {out : List Bool}
    (h : encodeRun (i :: is) s = some (out, t)) :
    ∃ u rest, exec i s = .next u ∧ u.lastErr = .ok ∧ encodeRun is u = some (rest, t) ∧
      out = poppedBy i u ++ rest := by
  rw [encodeRun] at h
  split at h
  next u hu =>
    split_ifs at h with hok
    split at h
    next rest v hrest =>
      obtain ⟨rfl, rfl⟩ := Prod.mk.inj (Option.some.inj h)
      exact ⟨u, rest, hu, hok, hrest, rfl⟩
    next => cases h
  next => cases h

/-- R483 from any state: what is popped, followed by the last OBUF, is the first OBUF followed by the codes. -/
theorem encodeRun_spec {s t : State} {is : List Instr} {out : List Bool}
    (his : ∀ i ∈ is, i = .outPop ∨ ∃ sym, i = .encSym sym) (h : encodeRun is s = some (out, t)) :
    out ++ t.obuf = s.obuf ++ encodedBits s is ∧
      t.encBits = s.encBits + word (encodedBits s is).length := by
  induction is generalizing s out with
  | nil =>
    obtain ⟨rfl, rfl⟩ := Prod.mk.inj (Option.some.inj h)
    exact ⟨(List.append_nil _).symm, (BitVec.add_zero _).symm⟩
  | cons i is ih =>
    obtain ⟨u, rest, hu, hok, hrest, rfl⟩ := encodeRun_cons_eq_some h
    obtain ⟨hi, his⟩ := List.forall_mem_cons.1 his
    obtain ⟨hbits, hcount, hcodes⟩ := encodeStep hi hu hok
    obtain ⟨hrestBits, hrestCount⟩ := ih his hrest
    rw [encodedBits_congr hcodes] at hrestBits hrestCount
    rw [encodedBits_cons]
    constructor
    · rw [List.append_assoc, hrestBits, ← List.append_assoc, hbits, List.append_assoc]
    · rw [hrestCount, hcount, List.length_append, word, word, word, BitVec.ofNat_add, BitVec.add_assoc]

/-- Settles O39: the run's invariant, read from an empty OBUF and ENC_BITS 0. -/
theorem encodingConcatenatesTheCodes : Obligations.EncodingConcatenatesTheCodes := by
  intro s t is out his hobuf hencBits h
  obtain ⟨hbits, hcount⟩ := encodeRun_spec his h
  rw [hobuf, List.nil_append] at hbits
  rw [hencBits, BitVec.zero_add] at hcount
  exact ⟨hbits, hcount⟩

end Machine
end Sys2Proof

namespace Sys2Proof
namespace Machine

/-! ### The tree-walk step

R502 reads the tree and nothing else of the state; each lemma says what the step does in one shape of tree. -/

theorem nodeAt_congr {s u : State} (h : Item.tree.same s u) : u.nodeAt = s.nodeAt := by
  obtain ⟨hnodes, -, hnnodes, -, -⟩ := h
  funext i
  rw [State.nodeAt, State.nodeAt, State.arena, State.arena, hnodes, hnnodes]

theorem dstep_congr {s u : State} (h : Item.tree.same s u) : dstep u = dstep s := by
  obtain ⟨-, hroot, -, -, hvalid⟩ := id h
  funext i b t
  rw [dstep, dstep, nodeAt_congr h, hroot, hvalid]

/-- R504: in a degenerate tree a 0 bit emits the root's symbol and a 1 bit is an error. -/
theorem dstep_of_root_leaf {s : State} (hv : s.treeValid = true) {sym : Byte} {f : Word}
    (hroot : s.nodeAt s.root = some (.leaf sym f)) (i : NodeIdx) (b : Bool) (t : Nat) :
    dstep s i b t =
      if b then .err .truncatedStream (badBitDetail t) else .at s.root (some sym) (t + 1) := by
  simp [dstep, hv, hroot]

section
variable {s : State} (hv : s.treeValid = true) {f0 : Word} {l0 r0 : NodeIdx}
  (hroot : s.nodeAt s.root = some (.inner f0 l0 r0)) {i l r : NodeIdx} {f : Word}
  (hi : s.nodeAt i = some (.inner f l r)) {b : Bool}
include hv hroot hi

/-- An edge to a leaf emits its symbol and returns to ROOT. -/
theorem dstep_of_child_leaf {sym : Byte} {g : Word}
    (hc : s.nodeAt (if b then r else l) = some (.leaf sym g)) (t : Nat) :
    dstep s i b t = .at s.root (some sym) (t + 1) := by
  simp [dstep, hv, hroot, hi, Node.left, Node.right, hc]

/-- An edge to an internal node leads there. -/
theorem dstep_of_child_inner {g : Word} {l' r' : NodeIdx}
    (hc : s.nodeAt (if b then r else l) = some (.inner g l' r')) (t : Nat) :
    dstep s i b t = .at (if b then r else l) none (t + 1) := by
  simp [dstep, hv, hroot, hi, Node.left, Node.right, hc]

end

/-- The position of a bit in its command shows in the number of bits consumed only. -/
theorem dstep_at_any_position {s : State} {i node : NodeIdx} {b : Bool} {t used : Nat} {out : Option Byte}
    (h : dstep s i b t = .at node out used) :
    used = t + 1 ∧ ∀ t', dstep s i b t' = .at node out (t' + 1) := by
  have hv := (dstep_at h).1
  simp only [dstep, hv, Bool.true_eq_false, if_false] at h ⊢
  generalize s.nodeAt s.root = root at h ⊢
  rcases root with _ | ⟨sym, f⟩ | ⟨f, l, r⟩
  · cases h
  · cases b <;> cases h
    exact ⟨rfl, fun _ => rfl⟩
  · generalize s.nodeAt i = entry at h ⊢
    rcases entry with _ | e
    · cases h
    · dsimp only at h ⊢
      generalize s.nodeAt (if b then e.right else e.left) = child at h ⊢
      rcases child with _ | _ | _ <;> cases h <;> exact ⟨rfl, fun _ => rfl⟩

/-! ### The end of a Decoder command -/

/-- The state in which DEC_BIT and DEC_WORD complete after a walk (R503, R506). -/
def walkedState (opc : Byte) (node : NodeIdx) (out : Option Byte) (r1 : Word) (s : State) : State :=
  complete opc (emittedWord out) r1 (s.decoded node out)

@[simp] theorem decoded_decNode (s : State) (node : NodeIdx) (out : Option Byte) :
    (s.decoded node out).decNode = node := by
  cases out <;> rfl

section
variable (opc : Byte) (node : NodeIdx) (out : Option Byte) (r1 : Word) (s : State)

@[simp] theorem walkedState_lastErr : (walkedState opc node out r1 s).lastErr = .ok := rfl
@[simp] theorem walkedState_result0 : (walkedState opc node out r1 s).result0 = emittedWord out := rfl
@[simp] theorem walkedState_result1 : (walkedState opc node out r1 s).result1 = r1 := rfl
@[simp] theorem walkedState_decNode : (walkedState opc node out r1 s).decNode = node :=
  decoded_decNode s node out

theorem walkedState_reports : Reports (walkedState opc node out r1 s) opc (emittedWord out) r1 :=
  complete_reports ..

/-- A walk writes the Decoder's registers and no tree. -/
theorem tree_same_walkedState : Item.tree.same s (walkedState opc node out r1 s) := by
  cases out <;> exact ⟨rfl, rfl, rfl, rfl, rfl⟩

theorem walkedState_frame :
    walkedState opc node out r1 s =
      { withReport (walkedState opc node out r1 s) s with
        decNode := node, decCount := (s.decoded node out).decCount } := by
  cases out <;> rfl

end

theorem exec_decBit_of_at {s : State} {b : Bool} {node : NodeIdx} {out : Option Byte} {used : Nat}
    (h : dstep s s.decNode b 0 = .at node out used) :
    exec (.decBit b) s = .next (walkedState 0x51#8 node out (zext32 node) s) := by
  rw [exec, execDecBit, h, walkedState]

theorem exec_decBit_of_err {s : State} {b : Bool} {e : ErrCode} {info : Word}
    (h : dstep s s.decNode b 0 = .err e info) :
    exec (.decBit b) s = .next (raisedState e info 0x51#8 s) := by
  rw [exec, execDecBit, h]
  rfl

/-! ### The loop of DEC_WORD -/

/-- A bit that emits a symbol ends the loop (R506). -/
theorem dwalk_of_emit {s : State} {d : Word} {t used : Nat} {i node : NodeIdx} {sym : Byte}
    (h : dstep s i (packedBit d t) t = .at node (some sym) used) (left : Nat) :
    dwalk s d (left + 1) t i = .at node (some sym) used := by
  rw [dwalk, h]

/-- A bit that emits no symbol goes on to the next one. -/
theorem dwalk_of_move {s : State} {d : Word} {t used : Nat} {i node : NodeIdx}
    (h : dstep s i (packedBit d t) t = .at node none used) (left : Nat) :
    dwalk s d (left + 1) t i = dwalk s d left (t + 1) node := by
  rw [dwalk, h]

/-- An error ends the loop. -/
theorem dwalk_of_err {s : State} {d : Word} {t : Nat} {i : NodeIdx} {e : ErrCode} {info : Word}
    (h : dstep s i (packedBit d t) t = .err e info) (left : Nat) :
    dwalk s d (left + 1) t i = .err e info := by
  rw [dwalk, h]

/-- The first bit of a loop that succeeds either ends it with a symbol or leads to where the rest starts. -/
theorem dwalk_succ_at {s : State} {d : Word} {left t used : Nat} {i node : NodeIdx} {out : Option Byte}
    (h : dwalk s d (left + 1) t i = .at node out used) :
    (∃ sym, out = some sym ∧ dstep s i (packedBit d t) t = .at node (some sym) used) ∨
    (∃ c, dstep s i (packedBit d t) t = .at c none (t + 1) ∧
      dwalk s d left (t + 1) c = .at node out used) := by
  rcases hw : dstep s i (packedBit d t) t with ⟨c, _ | sym, k⟩ | ⟨e, info⟩ | f
  · obtain ⟨rfl, -⟩ := dstep_at_any_position hw
    exact .inr ⟨c, rfl, (dwalk_of_move hw left).symm.trans h⟩
  · rw [dwalk_of_emit hw] at h
    cases h
    exact .inl ⟨sym, rfl, rfl⟩
  · rw [dwalk_of_err hw] at h
    cases h
  · rw [dwalk, hw] at h
    cases h

theorem dwalk_congr {s u : State} (h : Item.tree.same s u) (d : Word) (left t : Nat) (i : NodeIdx) :
    dwalk u d left t i = dwalk s d left t i := by
  induction left generalizing t i with
  | zero => rfl
  | succ left ih => simp only [dwalk, dstep_congr h, ih]

theorem exec_decWord_of_range {s : State} {cnt : BitVec 6} (hcnt : cnt.toNat = 0 ∨ 32 < cnt.toNat) :
    exec (.decWord cnt) s = .next (raisedState .argRange (zext32 cnt) 0x52#8 s) := by
  rw [exec, execDecWord, if_pos hcnt, raise_eq_raisedState]

section
variable {s : State} {cnt : BitVec 6} (hpos : 1 ≤ cnt.toNat) (hle : cnt.toNat ≤ 32)
include hpos hle

theorem exec_decWord_of_no_tree (hv : s.treeValid = false) :
    exec (.decWord cnt) s = .next (raisedState .noTree 0#32 0x52#8 s) := by
  rw [exec, execDecWord, if_neg (by omega), if_pos hv, raise_eq_raisedState]

variable (hv : s.treeValid = true)
include hv

theorem exec_decWord_of_at {node : NodeIdx} {out : Option Byte} {used : Nat}
    (h : dwalk s s.dataIn cnt.toNat 0 s.decNode = .at node out used) :
    exec (.decWord cnt) s = .next (walkedState 0x52#8 node out (word used) s) := by
  rw [exec, execDecWord, if_neg (by omega), if_neg (by simp [hv]), h, walkedState]

theorem exec_decWord_of_err {e : ErrCode} {info : Word}
    (h : dwalk s s.dataIn cnt.toNat 0 s.decNode = .err e info) :
    exec (.decWord cnt) s = .next (raisedState e info 0x52#8 s) := by
  rw [exec, execDecWord, if_neg (by omega), if_neg (by simp [hv]), h]
  rfl

end

/-- A DEC_WORD that ends with OK has an operand in range, a tree, and a walk to the end. -/
theorem decWord_of_ok {s t : State} {cnt : BitVec 6} (h : exec (.decWord cnt) s = .next t)
    (hok : t.lastErr = .ok) :
    1 ≤ cnt.toNat ∧ cnt.toNat ≤ 32 ∧ ∃ node out used,
      dwalk s s.dataIn cnt.toNat 0 s.decNode = .at node out used ∧
        t = walkedState 0x52#8 node out (word used) s := by
  rcases Nat.eq_zero_or_pos cnt.toNat with hzero | hpos
  · rw [exec_decWord_of_range (.inl hzero)] at h
    cases h
    cases hok
  rcases Nat.lt_or_ge 32 cnt.toNat with hgt | hle
  · rw [exec_decWord_of_range (.inr hgt)] at h
    cases h
    cases hok
  refine ⟨hpos, hle, ?_⟩
  cases hv : s.treeValid with
  | false =>
    rw [exec_decWord_of_no_tree hpos hle hv] at h
    cases h
    cases hok
  | true =>
    rcases hw : dwalk s s.dataIn cnt.toNat 0 s.decNode with ⟨node, out, used⟩ | ⟨e, info⟩ | f
    · rw [exec_decWord_of_at hpos hle hv hw] at h
      cases h
      exact ⟨node, out, used, rfl, rfl⟩
    · rw [exec_decWord_of_err hpos hle hv hw] at h
      cases h
      exact absurd hok (dwalk_err_ne_ok hw)
    · rw [exec, execDecWord, if_neg (by omega), if_neg (by simp [hv]), hw] at h
      cases h

/-! ### DEC_WORD as a run of DEC_BITs -/

@[simp] theorem getLsbD_emittedWord (out : Option Byte) : (emittedWord out).getLsbD 31 = out.isSome := by
  cases out with
  | none => rfl
  | some sym => simp [emittedWord]

/-- The bits that DEC_WORD takes from position `t` on. -/
def bitsFrom (d : Word) (t left : Nat) : List Bool := (List.range' t left).map (packedBit d)

theorem bitsFrom_succ (d : Word) (t left : Nat) :
    bitsFrom d t (left + 1) = packedBit d t :: bitsFrom d (t + 1) left := by
  rw [bitsFrom, List.range'_succ, List.map_cons, bitsFrom]

theorem unpackBits_eq_bitsFrom (d : Word) {n : Nat} (hn : n ≤ 32) : unpackBits d n = bitsFrom d 0 n := by
  rw [unpackBits, bitsFrom, List.range_eq_range']
  refine List.map_congr_left fun t ht => ?_
  have ht : t < 32 := by
    have := List.mem_range'_1.1 ht
    omega
  rw [packedBit, BitVec.getMsbD, decide_eq_true ht, Bool.true_and]

theorem feedUntilSymbol_of_emit {s : State} {b : Bool} {node : NodeIdx} {sym : Byte} {used : Nat}
    (h : dstep s s.decNode b 0 = .at node (some sym) used) (bs : List Bool) :
    feedUntilSymbol (b :: bs) s = some (walkedState 0x51#8 node (some sym) (zext32 node) s, 1) := by
  simp [feedUntilSymbol, exec_decBit_of_at h, -BitVec.getLsbD_eq_getElem]

theorem feedUntilSymbol_of_move {s u : State} {b : Bool} {bs : List Bool} {node : NodeIdx} {used n : Nat}
    (h : dstep s s.decNode b 0 = .at node none used)
    (hrest : feedUntilSymbol bs (walkedState 0x51#8 node none (zext32 node) s) = some (u, n)) :
    feedUntilSymbol (b :: bs) s = some (u, n + 1) := by
  simp [feedUntilSymbol, exec_decBit_of_at h, hrest, -BitVec.getLsbD_eq_getElem]

/-- A loop that succeeds is the run of DEC_BITs on its bits. (With no bit left RESULT0 is the one before.) -/
theorem feedUntilSymbol_of_dwalk {s : State} {d : Word} {left t used : Nat} {node : NodeIdx}
    {out : Option Byte} (h : dwalk s d left t s.decNode = .at node out used)
    (hzero : left = 0 → s.result0 = 0#32) :
    ∃ u n, feedUntilSymbol (bitsFrom d t left) s = some (u, n) ∧ u.decNode = node ∧
      u.decCount = (s.decoded node out).decCount ∧ u.result0 = emittedWord out ∧ used = t + n := by
  induction left generalizing s t with
  | zero =>
    cases h
    exact ⟨s, 0, rfl, rfl, rfl, hzero rfl, rfl⟩
  | succ left ih =>
    rw [bitsFrom_succ]
    obtain ⟨sym, rfl, hstep⟩ | ⟨c, hstep, hrest⟩ := dwalk_succ_at h
    · obtain ⟨rfl, hfirst⟩ := dstep_at_any_position hstep
      exact ⟨_, 1, feedUntilSymbol_of_emit (hfirst 0) _, rfl, rfl, rfl, rfl⟩
    · obtain ⟨-, hfirst⟩ := dstep_at_any_position hstep
      have hsame := tree_same_walkedState 0x51#8 c none (zext32 c) s
      obtain ⟨u, n, hu, hnode, hcount, hresult, hused⟩ :=
        ih (s := walkedState 0x51#8 c none (zext32 c) s) ((dwalk_congr hsame ..).trans hrest) fun _ => rfl
      refine ⟨u, n + 1, feedUntilSymbol_of_move (hfirst 0) hu, hnode, hcount.trans ?_, hresult, by omega⟩
      cases out <;> rfl

/-- Settles O44, by induction on the number of bits left: the walk of DEC_WORD and the run of DEC_BITs take the
same step on each bit, since a DEC_BIT leaves the tree alone. -/
theorem decWordIsARunOfDecBits : Obligations.DecWordIsARunOfDecBits := by
  intro s t cnt h hok
  obtain ⟨hpos, hle, node, out, used, hw, rfl⟩ := decWord_of_ok h hok
  obtain ⟨u, n, hu, hnode, hcount, hresult, hused⟩ :=
    feedUntilSymbol_of_dwalk hw fun hzero => absurd hzero (Nat.ne_of_gt hpos)
  rw [Nat.zero_add] at hused
  refine ⟨u, n, (unpackBits_eq_bitsFrom s.dataIn hle).symm ▸ hu, ?_, hcount.symm, hresult.symm, ?_⟩
  · rw [walkedState_decNode, hnode]
  · rw [walkedState_result1, hused]

/-! ### The Decoder commands -/

/-- Settles O40: the child that the bit names is a leaf or internal, and the step does what R502 says of each. -/
theorem decBitFollowsOneEdge : Obligations.DecBitFollowsOneEdge := fun _ _ _ _ _ _ _ _ hv hroot hnode =>
  ⟨fun _ _ hc => ⟨_, exec_decBit_of_at (dstep_of_child_leaf hv hroot hnode hc 0), walkedState_reports ..,
      walkedState_frame ..⟩,
    fun _ _ _ hc => ⟨_, exec_decBit_of_at (dstep_of_child_inner hv hroot hnode hc 0), walkedState_reports ..,
      rfl⟩⟩

/-- Settles O41: a 0 bit ends the walk with the root's symbol, a 1 bit with the error, for DEC_WORD at its
first bit. -/
theorem degenerateTreeEmitsOnZeroOnly : Obligations.DegenerateTreeEmitsOnZeroOnly := by
  intro s sym f cnt hv hroot hpos hle
  have hstep := dstep_of_root_leaf hv hroot s.decNode
  obtain ⟨left, hcnt⟩ := Nat.exists_eq_add_of_le' hpos
  have hfirst : packedBit s.dataIn 0 = s.dataIn.getLsbD 31 := rfl
  refine ⟨⟨_, exec_decBit_of_at (hstep false 0), walkedState_reports .., rfl⟩,
    exec_decBit_of_err (hstep true 0), fun hbit => ?_, fun hbit => ?_⟩
  · have hw : dwalk s s.dataIn cnt.toNat 0 s.decNode = .at s.root (some sym) 1 := by
      rw [hcnt]
      exact dwalk_of_emit (by rw [hfirst, hbit]; exact hstep false 0) left
    exact ⟨_, exec_decWord_of_at hpos hle hv hw, walkedState_reports .., rfl⟩
  · refine exec_decWord_of_err hpos hle hv ?_
    rw [hcnt]
    exact dwalk_of_err (by rw [hfirst, hbit]; exact hstep true 0) left

/-- Settles O42: the range is checked before the tree, and with no tree every step raises NO_TREE. -/
theorem decoderChecksRangeThenTree : Obligations.DecoderChecksRangeThenTree := fun _ bit _ =>
  ⟨exec_decWord_of_range, fun hv => ⟨exec_decBit_of_err (dstep_of_no_tree hv _ bit 0),
    fun hpos hle => exec_decWord_of_no_tree hpos hle hv⟩⟩

section
variable {s : State} (hv : s.treeValid = true) (h : TreeLaw s) {f0 : Word} {l0 r0 : NodeIdx}
  (hroot : s.nodeAt s.root = some (.inner f0 l0 r0))
include hv h hroot

/-- In a lawful tree every step from an internal node emits a symbol at ROOT or reaches an internal node. -/
theorem TreeLaw.dstep_from_inner {i l r : NodeIdx} {f : Word} (hi : s.nodeAt i = some (.inner f l r))
    (b : Bool) (t : Nat) :
    (∃ sym, dstep s i b t = .at s.root (some sym) (t + 1)) ∨
    (∃ c g l' r', s.nodeAt c = some (.inner g l' r') ∧ dstep s i b t = .at c none (t + 1)) := by
  obtain ⟨hl, hr⟩ := children_lt_of_nodeLawful (h.lawful _ (List.mem_of_getElem? hi))
  have hlt : (if b then r else l).toNat < s.arena.length := by
    cases b
    · exact hl
    · exact hr
  obtain ⟨e, he⟩ : ∃ e, s.nodeAt (if b then r else l) = some e := ⟨_, List.getElem?_eq_getElem hlt⟩
  cases e with
  | leaf sym g => exact .inl ⟨sym, dstep_of_child_leaf hv hroot hi he t⟩
  | inner g l' r' => exact .inr ⟨_, g, l', r', he, dstep_of_child_inner hv hroot hi he t⟩

/-- From an internal node the loop ends with all its bits consumed or with a symbol at ROOT before that. -/
theorem TreeLaw.dwalk_from_inner (d : Word) (left t : Nat) {i l r : NodeIdx} {f : Word}
    (hi : s.nodeAt i = some (.inner f l r)) :
    (∃ node, dwalk s d left t i = .at node none (t + left)) ∨
    (∃ sym n, n < left ∧ dwalk s d left t i = .at s.root (some sym) (t + n + 1)) := by
  induction left generalizing t i l r f with
  | zero => exact .inl ⟨i, rfl⟩
  | succ left ih =>
    obtain ⟨sym, hstep⟩ | ⟨c, g, l', r', hc, hstep⟩ := h.dstep_from_inner hv hroot hi (packedBit d t) t
    · exact .inr ⟨sym, 0, Nat.succ_pos left, dwalk_of_emit hstep left⟩
    · rw [dwalk_of_move hstep]
      obtain ⟨node, hw⟩ | ⟨sym, n, hn, hw⟩ := ih (t + 1) hc
      · exact .inl ⟨node, by rw [hw, Nat.add_right_comm, Nat.add_assoc]⟩
      · refine .inr ⟨sym, n + 1, Nat.succ_lt_succ hn, ?_⟩
        rw [hw, Nat.add_right_comm t 1 n, Nat.add_assoc t n 1]

end

/-- Settles O43: R150 puts the Decoder at an internal node, from which the loop ends in one of two ways. -/
theorem decWordCompletes : Obligations.DecWordCompletes := by
  intro s cnt f l r hpos hle hv h hd hroot
  obtain ⟨g, l', r', hnode⟩ : ∃ g l' r', s.nodeAt s.decNode = some (.inner g l' r') := by
    obtain hdec | hinner := hd.2 hv
    · exact ⟨f, l, r, hdec ▸ hroot⟩
    · exact hinner
  obtain ⟨node, hw⟩ | ⟨sym, n, hn, hw⟩ := h.dwalk_from_inner hv hroot s.dataIn cnt.toNat 0 hnode
  · rw [Nat.zero_add] at hw
    exact ⟨_, cnt.toNat, exec_decWord_of_at hpos hle hv hw, walkedState_reports .., hpos, le_rfl,
      .inl ⟨rfl, rfl, rfl⟩, rfl⟩
  · rw [Nat.zero_add] at hw
    exact ⟨_, n + 1, exec_decWord_of_at hpos hle hv hw, walkedState_reports .., Nat.succ_pos n, hn,
      .inr ⟨⟨sym, rfl⟩, rfl, rfl⟩, rfl⟩

/-- Settles O45: the two cases are the branches of DEC_END. -/
theorem decEndChecksTheCodeBoundary : Obligations.DecEndChecksTheCodeBoundary := by
  refine fun s => ⟨fun hne => ?_, fun heq => ?_⟩
  · rw [exec, execDecEnd, if_pos hne, raise_eq_raisedState]
  · refine ⟨complete 0x53#8 s.decCount 0#32 s, ?_, complete_reports .., complete_eq_withReport ..⟩
    rw [exec, execDecEnd, if_neg (not_not.2 heq)]

end Machine
end Sys2Proof

namespace Sys2Proof
namespace Machine

/-! ### Reading an image back

What SER_BUILD writes DES_RUN parses: the records of a tree with exact sums and distinct symbols parse to that
tree, wherever they stand in an image. -/

/-- The words of an image from index `i` on begin with `ws`. -/
def HoldsAt (img : Nat → Word) (i : Nat) (ws : List Word) : Prop :=
  ∀ j w, ws[j]? = some w → img (i + j) = w

theorem holdsAt_cons {img : Nat → Word} {i : Nat} {w : Word} {ws : List Word}
    (h : HoldsAt img i (w :: ws)) : img i = w ∧ HoldsAt img (i + 1) ws :=
  ⟨h 0 w rfl, fun j v hv => by rw [Nat.add_right_comm]; exact h (j + 1) v hv⟩

theorem holdsAt_append {img : Nat → Word} {i : Nat} {ws vs : List Word} (h : HoldsAt img i (ws ++ vs)) :
    HoldsAt img i ws ∧ HoldsAt img (i + ws.length) vs := by
  constructor
  · intro j w hw
    obtain ⟨hlt, -⟩ := List.getElem?_eq_some_iff.1 hw
    exact h j w (by rwa [List.getElem?_append_left hlt])
  · intro j w hw
    rw [Nat.add_assoc]
    exact h _ w (by rwa [List.getElem?_append_right (Nat.le_add_right ..), Nat.add_sub_cancel_left])

/-- The fields that the parse looks at in a leaf's header (R523, R529). -/
theorem leafHeader_fields (sym : Byte) :
    (leafHeader sym).extractLsb' 28 4 = 0xA#4 ∧ (leafHeader sym).getLsbD 27 = false ∧
      (leafHeader sym).extractLsb' 8 16 = 0#16 ∧ (leafHeader sym).extractLsb' 24 3 = 0b100#3 ∧
      (leafHeader sym).extractLsb' 0 8 = sym := by
  have h : leafHeader sym = BitVec.cast (rfl : 8 + 16 + 8 = 32) (0xA4#8 ++ 0#16 ++ sym) := rfl
  simp (disch := decide) [-Nat.reduceAdd, -BitVec.getLsbD_eq_getElem, h, BitVec.getLsbD_append,
    BitVec.extractLsb'_append_eq_of_le, BitVec.extractLsb'_append_eq_of_add_le]

section
variable {img : Nat → Word} {endw depth p : Nat} {seen : List Byte} (hin : 1 + 2 * p < endw)
include hin

theorem parseNode_of_leaf {sym : Byte} {f : Word} (hheader : img (1 + 2 * p) = leafHeader sym)
    (hfreq : img (1 + 2 * p + 1) = f) (hf : f ≠ 0#32) (hsym : sym ∉ seen) :
    parseNode img endw (depth + 1) p seen = .ok (.leaf sym f, p + 1, sym :: seen) := by
  obtain ⟨htag, hbit, hzeros, hflags, hfield⟩ := leafHeader_fields sym
  rw [parseNode, if_neg (Nat.not_le.2 hin)]
  simp only [hheader, hfreq, htag, hbit, hzeros, hflags, hfield, hf, hsym, ne_eq, not_true, or_self,
    Bool.false_eq_true, if_false, if_true]

theorem parseNode_of_inner {f : Word} {l r : HTree} {p1 p2 : Nat} {seen1 seen2 : List Byte}
    (hheader : img (1 + 2 * p) = innerHeader) (hfreq : img (1 + 2 * p + 1) = f)
    (hl : parseNode img endw depth (p + 1) seen = .ok (l, p1, seen1))
    (hr : parseNode img endw depth p1 seen1 = .ok (r, p2, seen2))
    (hsum : f.toNat = l.freq.toNat + r.freq.toNat) :
    parseNode img endw (depth + 1) p seen = .ok (.node f l r, p2, seen2) := by
  rw [parseNode, if_neg (Nat.not_le.2 hin)]
  simp [hheader, hfreq, innerHeader, hl, hr, hsum]

end

/-- The records of a tree parse to it (R529). -/
theorem parseNode_of_records {img : Nat → Word} {endw depth p : Nat} {seen : List Byte} {t : HTree}
    (h : HoldsAt img (1 + 2 * p) t.records) (hend : 2 * (p + t.size) < endw) (hdepth : t.size ≤ depth)
    (hs : t.sumsExact = true) (hd : (t.symbols ++ seen).Nodup) :
    parseNode img endw depth p seen = .ok (t, p + t.size, t.symbols.reverse ++ seen) := by
  induction t generalizing depth p seen with
  | leaf sym f =>
    obtain ⟨depth, rfl⟩ := Nat.exists_eq_add_of_le' hdepth
    obtain ⟨hheader, h⟩ := holdsAt_cons h
    have hf : f ≠ 0#32 := by
      rintro rfl
      simp [HTree.sumsExact] at hs
    simp only [HTree.size] at hend
    exact parseNode_of_leaf (by omega) hheader (holdsAt_cons h).1 hf (List.nodup_cons.1 hd).1
  | node f l r ihl ihr =>
    simp only [HTree.size] at hend hdepth
    obtain ⟨depth, rfl⟩ : ∃ d, depth = d + 1 := Nat.exists_eq_add_of_le' (by omega)
    simp only [HTree.sumsExact, Bool.and_eq_true, decide_eq_true_eq] at hs
    obtain ⟨⟨hsl, hsr⟩, hsum⟩ := hs
    obtain ⟨hheader, h⟩ := holdsAt_cons h
    obtain ⟨hfreq, h⟩ := holdsAt_cons h
    obtain ⟨hl, hr⟩ := holdsAt_append h
    have hdl : (l.symbols ++ seen).Nodup :=
      hd.sublist ((List.sublist_append_left l.symbols r.symbols).append_right seen)
    have hdr : (r.symbols ++ (l.symbols.reverse ++ seen)).Nodup := by
      refine (List.perm_iff_count.2 fun a => ?_).nodup_iff.1 hd
      simp only [HTree.symbols, List.count_append, List.count_reverse]
      omega
    have hl := ihl (depth := depth) (p := p + 1) (by convert hl using 1; omega) (by omega) (by omega) hsl hdl
    have hr := ihr (depth := depth) (p := p + 1 + l.size)
      (by convert hr using 1; rw [l.records_length]; omega) (by omega) (by omega) hsr hdr
    rw [parseNode_of_inner (by omega) hheader hfreq hl hr hsum]
    simp [HTree.size, HTree.symbols, Nat.add_assoc]

/-- The stream header of an image is good and carries its COUNT (R522). -/
theorem imageHeader_fields {n : Nat} (hn : n ≤ Config.maxNodes) :
    headerOk (imageHeader n) = true ∧ headerCount (imageHeader n) = n := by
  have h : imageHeader n =
      BitVec.cast (rfl : 16 + 4 + 2 + 10 = 32) (0x4854#16 ++ 1#4 ++ 0#2 ++ BitVec.ofNat 10 n) := rfl
  have hn : n ≤ 511 := hn
  constructor <;>
    simp (disch := decide) [-Nat.reduceAdd, headerOk, headerCount, h, BitVec.extractLsb'_append_eq_of_le,
      BitVec.extractLsb'_append_eq_of_add_le] <;>
    omega

/-- The image of a tree parses to it (R521, R529). -/
theorem parseImage_of_image {img : Nat → Word} {t : HTree}
    (h : HoldsAt img 0 (imageHeader t.size :: t.records)) (hsize : t.size ≤ Config.maxNodes)
    (hs : t.sumsExact = true) (hd : t.symbols.Nodup) : parseImage img = .ok (some t) := by
  obtain ⟨hheader, hrecords⟩ := holdsAt_cons h
  obtain ⟨hok, hcount⟩ := imageHeader_fields hsize
  have hpos := t.one_le_size
  have hsize : t.size ≤ 511 := hsize
  have hnode : parseNode img (1 + 2 * t.size) 512 0 [] = .ok (t, 0 + t.size, t.symbols.reverse ++ []) :=
    parseNode_of_records hrecords (by omega) (by omega) hs (by simpa using hd)
  simp [parseImage, hheader, hok, hcount, hnode, Nat.ne_of_gt hpos]

/-- Words that have been written are read as such, with no free draw (R161). -/
theorem serWord_of_lookup {s : State} {i : Nat} {w : Word} (h : s.serbuf.lookup i = some w) :
    s.serWord i = w := by
  rw [State.serWord, h]

/-! ### The tree that DES_RUN loads -/

/-- Where the layout of a tree stands in an arena, the tree is read back (R533). -/
theorem readTree_layout {arena : List Node} {t : HTree} {i d : Nat} (h : t.layout i <+: arena.drop i)
    (hi : i + t.size ≤ Config.maxNodes) (hd : t.size ≤ d) :
    readTree arena d (BitVec.ofNat 9 i) = .ok t := by
  induction t generalizing i d with
  | leaf sym f =>
    obtain ⟨d, rfl⟩ : ∃ d', d = d' + 1 := Nat.exists_eq_add_of_le' hd
    have hn : (BitVec.ofNat 9 i).toNat = i := toNat_ofNat_nine (by omega)
    obtain ⟨rest, hrest⟩ := h
    have he : arena[i]? = some (.leaf sym f) := by rw [← List.head?_drop, ← hrest]; rfl
    rw [readTree, hn, he]
  | node f l r ihl ihr =>
    simp only [HTree.size] at hi hd
    obtain ⟨d, rfl⟩ : ∃ d', d = d' + 1 := Nat.exists_eq_add_of_le' (by omega)
    have hn : (BitVec.ofNat 9 i).toNat = i := toNat_ofNat_nine (by omega)
    obtain ⟨he, hl, hr⟩ := layout_node_at h
    have hleft := ihl (d := d) hl (by omega) (by omega)
    have hright := ihr (d := d) hr (by omega) (by omega)
    simp only [readTree, hn, he, hleft, hright]

theorem tree_loadTree_layout {t : HTree} (hsize : t.size ≤ Config.maxNodes) (k : Nat) (s : State) :
    (loadTree (t.layout 0) 0#9 k s).tree = .ok t := by
  rw [State.tree, arena_loadTree (by rwa [t.layout_length])]
  exact readTree_layout (i := 0) ⟨[], List.append_nil _⟩ (by omega) hsize

/-- The state in which DES_RUN completes, when SERBUF holds the image of `t` (R530). -/
def reloadedState (s : State) (t : HTree) : State :=
  complete 0x63#8 (word t.size) (word t.leaves) (loadTree (t.layout 0) 0#9 t.leaves s.drawn)

theorem exec_desRun_of_image {s : State} {t : HTree}
    (h : ∀ j w, (imageHeader t.size :: t.records)[j]? = some w → s.serbuf.lookup j = some w)
    (hsize : t.size ≤ Config.maxNodes) (hs : t.sumsExact = true) (hd : t.symbols.Nodup) :
    exec .desRun s = .next (reloadedState s t) := by
  have hholds : HoldsAt s.serWord 0 (imageHeader t.size :: t.records) := fun j w hw =>
    serWord_of_lookup (by rw [Nat.zero_add]; exact h j w hw)
  rw [exec, execDesRun, parseImage_of_image hholds hsize hs hd, desRunResult, reloadedState]

theorem tree_reloadedState {t : HTree} (hsize : t.size ≤ Config.maxNodes) (s : State) :
    (reloadedState s t).tree = .ok t :=
  tree_loadTree_layout hsize t.leaves s.drawn

/-! ### SER_BUILD of a lawful tree, and DES_RUN of its image -/

/-- A tree read out of the arena has the F of the entry it was read from at its root. -/
theorem freq_of_readTree {arena : List Node} {d : Nat} {i : NodeIdx} {t : HTree}
    (h : readTree arena d i = .ok t) : ∃ e, arena[i.toNat]? = some e ∧ e.freq = t.freq := by
  cases d with
  | zero => cases h
  | succ d =>
    obtain ⟨sym, f, he, rfl⟩ | ⟨f, l, r, tl, tr, he, -, -, rfl⟩ := readTree_cases h <;>
      exact ⟨_, he, rfl⟩

/-- A tree read out of lawful entries has exact sums (R144 (e)). -/
theorem sumsExact_of_readTree {arena : List Node} (hlaw : ∀ e ∈ arena, nodeLawful arena e = true) {d : Nat}
    {i : NodeIdx} {t : HTree} (h : readTree arena d i = .ok t) : t.sumsExact = true := by
  induction d generalizing i t with
  | zero => cases h
  | succ d ih =>
    obtain ⟨sym, f, he, rfl⟩ | ⟨f, l, r, tl, tr, he, hl, hr, rfl⟩ := readTree_cases h
    · exact hlaw _ (List.mem_of_getElem? he)
    · obtain ⟨a, ha, haf⟩ := freq_of_readTree hl
      obtain ⟨b, hb, hbf⟩ := freq_of_readTree hr
      have hsum := (nodeLawful_inner ha hb).1 (hlaw _ (List.mem_of_getElem? he))
      rw [haf, hbf] at hsum
      simp [HTree.sumsExact, ih hl, ih hr, hsum]

/-- The state in which SER_BUILD completes, when the loaded tree is `t` (R524). -/
def serializedState (s : State) (t : HTree) : State :=
  complete 0x60#8 (word (1 + 2 * s.nnodes.toNat)) (word s.nnodes.toNat)
    { s with serbuf := s.serbuf.writeFrom 0 (imageHeader s.nnodes.toNat :: t.records) }

theorem exec_serBuild_of_tree {s : State} {t : HTree} (hv : s.treeValid = true) (ht : s.tree = .ok t) :
    exec .serBuild s = .next (serializedState s t) := by
  simp [exec, execSerBuild, hv, ht, serializedState]

section
variable {s : State} (h : TreeLaw s) {t : HTree} (ht : s.tree = .ok t)
include h ht

/-- SER_BUILD of a lawful tree leaves its image in SERBUF (R521). -/
theorem TreeLaw.lookup_serializedState {j : Nat} {w : Word}
    (hw : (imageHeader t.size :: t.records)[j]? = some w) :
    (serializedState s t).serbuf.lookup j = some w := by
  rw [h.size_eq ht] at hw
  obtain ⟨hlt, rfl⟩ := List.getElem?_eq_some_iff.1 hw
  have hlookup := Memory.lookup_writeFrom_inside s.serbuf 0 _ hlt
  rwa [Nat.zero_add] at hlookup

theorem TreeLaw.tree_size_le : t.size ≤ Config.maxNodes := by
  rw [h.size_eq ht]
  exact Nat.le_of_lt_succ s.nnodes.isLt

/-- DES_RUN then loads the same tree (R534). -/
theorem TreeLaw.exec_desRun_serializedState :
    exec .desRun (serializedState s t) = .next (reloadedState (serializedState s t) t) :=
  exec_desRun_of_image (fun _ _ hw => h.lookup_serializedState ht hw) (h.tree_size_le ht)
    (sumsExact_of_readTree h.lawful ht) (h.symbols_nodup ht)

end

/-! ### Decoding a code

One DEC_BIT per bit of a code of the loaded tree, from ROOT, emits its symbol and returns to ROOT. -/

theorem tree_congr {s u : State} (h : Item.tree.same s u) : u.tree = s.tree := by
  obtain ⟨hnodes, hroot, hnnodes, -, -⟩ := h
  rw [State.tree, State.tree, State.arena, State.arena, hnodes, hnnodes, hroot]

/-- DEC_BITs on the bits `p` from state `s` emit `sym`, at the last of them, and leave the Decoder of `u` at
ROOT, whatever bits follow. -/
structure Emits (s : State) (p : List Bool) (sym : Byte) (u : State) : Prop where
  tree : Item.tree.same s u
  atRoot : u.decNode = u.root
  counted : u.decCount = s.decCount + 1#32
  feed : ∀ {rest out v}, feedBits rest u = some (out, v) → feedBits (p ++ rest) s = some (sym :: out, v)

@[simp] theorem emittedBy_walkedState (opc : Byte) (node : NodeIdx) (out : Option Byte) (r1 : Word) (s : State) :
    emittedBy (walkedState opc node out r1 s) = out.toList := by
  cases out with
  | none => simp [emittedBy, -BitVec.getLsbD_eq_getElem]
  | some sym =>
    have hsym : (0x80000000#32 ||| zext32 sym).extractLsb' 0 8 = sym := by
      rw [BitVec.extractLsb'_or]
      exact BitVec.eq_of_getLsbD_eq fun i hi => by simp [hi, show i < 32 by omega]
    simp [emittedBy, -BitVec.getLsbD_eq_getElem, emittedWord, hsym]

theorem feedBits_of_at {s v : State} {b : Bool} {bs : List Bool} {node : NodeIdx} {out : Option Byte}
    {used : Nat} {syms : List Byte} (h : dstep s s.decNode b 0 = .at node out used)
    (hrest : feedBits bs (walkedState 0x51#8 node out (zext32 node) s) = some (syms, v)) :
    feedBits (b :: bs) s = some (out.toList ++ syms, v) := by
  simp [feedBits, exec_decBit_of_at h, hrest]

/-- A bit that emits a symbol at ROOT. -/
theorem emits_of_dstep {s : State} {b : Bool} {sym : Byte} {used : Nat}
    (h : dstep s s.decNode b 0 = .at s.root (some sym) used) :
    Emits s [b] sym (walkedState 0x51#8 s.root (some sym) (zext32 s.root) s) where
  tree := tree_same_walkedState ..
  atRoot := rfl
  counted := rfl
  feed := feedBits_of_at h

theorem tree_same_trans {s t u : State} (h : Item.tree.same s t) (h' : Item.tree.same t u) :
    Item.tree.same s u := by
  obtain ⟨hnodes, hroot, hnnodes, hnleaves, hvalid⟩ := h'
  rw [Item.same, hnodes, hroot, hnnodes, hnleaves, hvalid]
  exact h

/-- A bit that emits no symbol, before bits that emit one. -/
theorem Emits.cons {s u : State} {b : Bool} {bs : List Bool} {sym : Byte} {node : NodeIdx} {used : Nat}
    (h : Emits (walkedState 0x51#8 node none (zext32 node) s) bs sym u)
    (hstep : dstep s s.decNode b 0 = .at node none used) : Emits s (b :: bs) sym u where
  tree := tree_same_trans (tree_same_walkedState ..) h.tree
  atRoot := h.atRoot
  counted := h.counted
  feed := fun hrest => feedBits_of_at hstep (h.feed hrest)

/-- A path with a first label starts at an internal entry and goes on in the child the label names. -/
theorem follow_cons_eq_some {arena : List Node} {i : NodeIdx} {b : Bool} {bs : List Bool} {e : Node}
    (h : follow arena i (b :: bs) = some e) :
    ∃ f l r, arena[i.toNat]? = some (.inner f l r) ∧ follow arena (if b then r else l) bs = some e := by
  rcases hi : arena[i.toNat]? with _ | ⟨sym, f⟩ | ⟨f, l, r⟩
  · rw [follow, hi] at h
    cases h
  · rw [follow_cons_of_leaf hi] at h
    cases h
  · exact ⟨f, l, r, rfl, (follow_cons_of_inner hi b bs).symm.trans h⟩

/-- In a tree with an internal root the bits of a path to a leaf emit its symbol (R462, R502). -/
theorem exists_emits_of_follow {s : State} (hv : s.treeValid = true) {f0 : Word} {l0 r0 : NodeIdx}
    (hroot : s.nodeAt s.root = some (.inner f0 l0 r0)) {b : Bool} {bs : List Bool} {sym : Byte} {g : Word}
    (h : follow s.arena s.decNode (b :: bs) = some (.leaf sym g)) : ∃ u, Emits s (b :: bs) sym u := by
  induction bs generalizing s b with
  | nil =>
    obtain ⟨f, l, r, hi, h⟩ := follow_cons_eq_some h
    exact ⟨_, emits_of_dstep (dstep_of_child_leaf hv hroot hi h 0)⟩
  | cons b' bs ih =>
    obtain ⟨f, l, r, hi, h⟩ := follow_cons_eq_some h
    obtain ⟨g', l', r', hc, -⟩ := follow_cons_eq_some h
    have hstep := dstep_of_child_inner hv hroot hi hc 0
    obtain ⟨u, hu⟩ := ih (s := walkedState 0x51#8 (if b then r else l) none _ s) hv hroot h
    exact ⟨u, hu.cons hstep⟩

/-- The bits of a code of the loaded tree emit its symbol, from ROOT (R461, R464). -/
theorem exists_emits_of_mem_codes {s : State} {t : HTree} (hv : s.treeValid = true) (ht : s.tree = .ok t)
    (hnode : s.decNode = s.root) {sym : Byte} {p : List Bool} (hp : (sym, p) ∈ t.codes) :
    ∃ u, Emits s p sym u := by
  obtain ⟨sym', f, hroot, -⟩ | ⟨f, l, r, -, -, hroot, -⟩ := readTree_cases ht
  · rw [codes_of_root_leaf ht hroot, List.mem_singleton] at hp
    cases hp
    exact ⟨_, emits_of_dstep (dstep_of_root_leaf hv hroot s.decNode false 0)⟩
  · obtain ⟨b, bs, rfl⟩ := List.exists_cons_of_ne_nil (HTree.ne_nil_of_mem_codes hp)
    rw [codes_of_root_inner ht hroot, mem_paths_iff_follow ht, ← hnode] at hp
    obtain ⟨g, hpath⟩ := hp
    exact exists_emits_of_follow hv hroot hpath

/-- The concatenated codes of a sequence decode to it, from ROOT to ROOT (R509). -/
theorem feedBits_of_codes {s : State} {t : HTree} (hv : s.treeValid = true) (ht : s.tree = .ok t)
    (hnode : s.decNode = s.root) {code : Byte → List Bool} {S : List Byte}
    (hcodes : ∀ sym ∈ S, (sym, code sym) ∈ t.codes) :
    ∃ v, feedBits (S.flatMap code) s = some (S, v) ∧ v.decNode = v.root ∧
      v.decCount = s.decCount + word S.length := by
  induction S generalizing s with
  | nil => exact ⟨s, rfl, hnode, (BitVec.add_zero _).symm⟩
  | cons sym S ih =>
    obtain ⟨hcode, hcodes⟩ := List.forall_mem_cons.1 hcodes
    obtain ⟨u, hu⟩ := exists_emits_of_mem_codes hv ht hnode hcode
    obtain ⟨-, -, -, -, hvalid⟩ := hu.tree
    obtain ⟨v, hfeed, hroot, hcount⟩ :=
      ih (hvalid.trans hv) ((tree_congr hu.tree).trans ht) hu.atRoot hcodes
    refine ⟨v, hu.feed hfeed, hroot, ?_⟩
    rw [hcount, hu.counted, List.length_cons, Nat.add_comm, word, word, BitVec.ofNat_add, BitVec.add_assoc]

/-! ### The round trip -/

/-- R509 from any state with the tree loaded: after DEC_RESET the codes of a sequence decode to it, and DEC_END
then answers its length. -/
theorem decode_after_decReset {s : State} {t : HTree} (hv : s.treeValid = true) (ht : s.tree = .ok t)
    {code : Byte → List Bool} {S : List Byte} (hcodes : ∀ sym ∈ S, (sym, code sym) ∈ t.codes) :
    ∃ u v w, exec .decReset s = .next u ∧ feedBits (S.flatMap code) u = some (S, v) ∧
      exec .decEnd v = .next w ∧ Reports w 0x53#8 (word S.length) 0#32 := by
  obtain ⟨v, hfeed, hroot, hcount⟩ :=
    feedBits_of_codes (s := complete 0x50#8 (zext32 s.root) 0#32 { s with decNode := s.root, decCount := 0#32 })
      hv ht rfl hcodes
  obtain ⟨w, hw, hreports, -⟩ := (decEndChecksTheCodeBoundary v).2 hroot
  rw [hcount, complete_decCount, BitVec.zero_add] at hreports
  exact ⟨_, v, w, rfl, hfeed, hw, hreports⟩

/-- A run that answers has a first command that does and a rest that does. -/
theorem runCommands_cons_eq_next {i : Instr} {is : List Instr} {s t : State}
    (h : runCommands (i :: is) s = .next t) : ∃ u, exec i s = .next u ∧ runCommands is u = .next t := by
  rw [runCommands] at h
  cases hi : exec i s with
  | next u =>
    rw [hi] at h
    exact ⟨u, rfl, h⟩
  | fault f =>
    rw [hi] at h
    cases h
  | refused r => exact absurd hi (exec_ne_refused i s r)

theorem runCommands_append_of_next {is js : List Instr} {s t : State} (h : runCommands is s = .next t) :
    runCommands (is ++ js) s = runCommands js t := by
  induction is generalizing s with
  | nil =>
    cases h
    rfl
  | cons i is ih =>
    obtain ⟨u, hi, h⟩ := runCommands_cons_eq_next h
    exact (runCommands_cons_of_exec hi (is ++ js)).trans (ih h)

theorem runCommands_keeps_freqLaw {is : List Instr} {s t : State} (hf : FreqLaw s)
    (h : runCommands is s = .next t) : FreqLaw t := by
  induction is generalizing s with
  | nil =>
    cases h
    exact hf
  | cons i is ih =>
    obtain ⟨u, hi, h⟩ := runCommands_cons_eq_next h
    exact ih (exec_keeps_freqLaw hf hi) h

/-- R421, with the law: counting a sequence from any state leaves a lawful one. -/
theorem exists_counted (s : State) {S : List Byte} (hlen : S.length ≤ Config.freqMax) :
    ∃ t, runCommands (.freqClear :: S.map .freqCount) s = .next t ∧ FreqLaw t ∧
      (∀ sym, (t.freqAt sym).toNat = S.count sym) ∧ t.total.toNat = S.length := by
  obtain ⟨t, ht, -, hcount, htotal, -⟩ := countingASequence s S hlen
  obtain ⟨u, hu, hrest⟩ := runCommands_cons_eq_next ht
  have hlaw : FreqLaw u := by
    cases hu
    exact freqLaw_of_cleared rfl rfl
  exact ⟨t, ht, runCommands_keeps_freqLaw hlaw hrest, hcount, htotal⟩

theorem mem_countedSymbols (s : State) (sym : Byte) : sym ∈ countedSymbols s ↔ s.freqAt sym ≠ 0#32 := by
  have hmem : sym ∈ (List.range 256).map (BitVec.ofNat 8) :=
    List.mem_map.2 ⟨sym.toNat, List.mem_range.2 sym.isLt, BitVec.ofNat_toNat ..⟩
  simp only [countedSymbols, List.mem_filter, hmem, true_and, decide_eq_true_eq]

/-- The symbols of the tree that BUILD loads are the counted ones (R442). -/
theorem mem_symbols_built_iff {s : State} (hf : FreqLaw s) (hne : leafNodes s ≠ []) {t : HTree}
    (ht : (builtState s).tree = .ok t) (sym : Byte) : sym ∈ t.symbols ↔ s.freqAt sym ≠ 0#32 := by
  rw [((treeLaw_builtState hf hne).symbols_perm ht).mem_iff, arena_builtState hf hne,
    leaves_of_built hf hne, symbols_of_leafNodes, mem_countedSymbols]

/-- After GEN_CODES every symbol of a lawful tree has its code of the tree. -/
theorem mem_codes_codedState {s : State} {t : HTree} (h : TreeLaw s) (ht : s.tree = .ok t) {sym : Byte}
    (hsym : sym ∈ t.symbols) : (sym, (codedState s t).codeAt sym) ∈ t.codes := by
  rw [← t.map_fst_codes] at hsym
  obtain ⟨⟨_, p⟩, hcode, rfl⟩ := List.mem_map.1 hsym
  rwa [(codeAt_codedState_eq_iff h ht _ (HTree.ne_nil_of_mem_codes hcode)).2 hcode]

/-- R509 for a lawful tree: on it, or on the one that DES_RUN loads from its image, the codes of a sequence
decode to it. -/
theorem TreeLaw.decode_on_tree_or_reloaded {s : State} (h : TreeLaw s) (hv : s.treeValid = true) {t : HTree}
    (ht : s.tree = .ok t) {code : Byte → List Bool} {S : List Byte}
    (hcodes : ∀ sym ∈ S, (sym, code sym) ∈ t.codes) {pre : List Instr}
    (hpre : pre = [.decReset] ∨ pre = [.serBuild, .desRun, .decReset]) :
    ∃ u v w, runCommands pre s = .next u ∧ feedBits (S.flatMap code) u = some (S, v) ∧
      exec .decEnd v = .next w ∧ Reports w 0x53#8 (word S.length) 0#32 := by
  obtain rfl | rfl := hpre
  · obtain ⟨u, v, w, hu, hrest⟩ := decode_after_decReset hv ht hcodes
    exact ⟨u, v, w, runCommands_cons_of_exec hu [], hrest⟩
  · obtain ⟨u, v, w, hu, hrest⟩ :=
      decode_after_decReset (s := reloadedState (serializedState s t) t) rfl
        (tree_reloadedState (h.tree_size_le ht) _) hcodes
    refine ⟨u, v, w, ?_, hrest⟩
    rw [runCommands_cons_of_exec (exec_serBuild_of_tree hv ht),
      runCommands_cons_of_exec (h.exec_desRun_serializedState ht), runCommands_cons_of_exec hu, runCommands]

/-- Settles O46: the counted symbols are those of the tree that BUILD loads, GEN_CODES gives each its code of that
tree, and on the tree as on its reload the codes decode one by one. -/
theorem decodingWhatWasEncoded : Obligations.DecodingWhatWasEncoded := by
  intro s S hne hlen
  obtain ⟨a, hrun, hf, hcount, hlength⟩ := exists_counted s hlen
  have htotal : a.total ≠ 0#32 := by
    intro hzero
    rw [hzero] at hlength
    exact hne (List.eq_nil_of_length_eq_zero hlength.symm)
  have hleaves := leafNodes_ne_nil hf htotal
  have hlaw := treeLaw_builtState hf hleaves
  obtain ⟨t, ht⟩ := hlaw.exists_tree
  have hcodes : ∀ sym ∈ S, (sym, (codedState (builtState a) t).codeAt sym) ∈ t.codes := by
    intro sym hsym
    refine mem_codes_codedState hlaw ht ((mem_symbols_built_iff hf hleaves ht sym).2 fun hzero => ?_)
    have hpos := List.count_pos_iff.2 hsym
    rw [← hcount, hzero] at hpos
    exact absurd hpos (Nat.lt_irrefl 0)
  have hcoded : TreeLaw (codedState (builtState a) t) := hlaw.congr ⟨rfl, rfl, rfl, rfl, rfl⟩
  refine ⟨codedState (builtState a) t, ?_, rfl, fun _ hpre =>
    hcoded.decode_on_tree_or_reloaded rfl ht hcodes hpre⟩
  rw [runCommands_append_of_next hrun, runCommands_cons_of_exec (exec_build_of_count hf htotal),
    runCommands_cons_of_exec (exec_genCodes_of_tree rfl ht), runCommands]

end Machine
end Sys2Proof

namespace Sys2Proof
namespace Machine

/-! ### The words of an image

Each header word that the parse of DES_RUN accepts is the one word that SER_BUILD writes for its fields. -/

theorem toNat_leafHeader (sym : Byte) : (leafHeader sym).toNat = 0xA4000000 + sym.toNat := by
  rw [leafHeader, BitVec.toNat_append, ← Nat.shiftLeft_add_eq_or_of_lt sym.isLt]
  rfl

theorem toNat_imageHeader {n : Nat} (hn : n ≤ Config.maxNodes) :
    (imageHeader n).toNat = 0x48541000 + n := by
  have hn : n ≤ 511 := hn
  have hcount : (BitVec.ofNat 10 n).toNat = n := by rw [BitVec.toNat_ofNat, Nat.mod_eq_of_lt (by omega)]
  rw [imageHeader, BitVec.toNat_append, ← Nat.shiftLeft_add_eq_or_of_lt (BitVec.isLt _), hcount]
  rfl

theorem toNat_word {n : Nat} (hn : n < 2 ^ 32) : (word n).toNat = n := by
  rw [BitVec.toNat_ofNat, Nat.mod_eq_of_lt hn]

/-- The stream header of an image is the word R522 gives it. -/
theorem imageHeader_eq {n : Nat} (hn : n ≤ Config.maxNodes) : imageHeader n = 0x48541000#32 ||| word n := by
  have hn' : n ≤ 511 := hn
  apply BitVec.eq_of_toNat_eq
  rw [toNat_imageHeader hn, BitVec.toNat_or, BitVec.toNat_ofNat, toNat_word (by omega)]
  exact Nat.shiftLeft_add_eq_or_of_lt (i := 10) (by omega) 0x121504

theorem toNat_field (w : Word) (start len : Nat) :
    (w.extractLsb' start len).toNat = w.toNat / 2 ^ start % 2 ^ len := by
  rw [BitVec.extractLsb'_toNat, Nat.shiftRight_eq_div_pow]

/-- R523: TAG and the reserved bits leave only the three present flags and SYM of a node header open. -/
theorem toNat_nodeHeader {w : Word} (htag : w.extractLsb' 28 4 = 0xA#4) (hbit : w.getLsbD 27 = false)
    (hzeros : w.extractLsb' 8 16 = 0#16) :
    w.toNat = 0xA0000000 + 2 ^ 24 * (w.extractLsb' 24 3).toNat + (w.extractLsb' 0 8).toNat := by
  have htag := congrArg BitVec.toNat htag
  have hzeros := congrArg BitVec.toNat hzeros
  rw [BitVec.getLsbD, Nat.testBit_eq_decide_div_mod_eq, decide_eq_false_iff_not] at hbit
  rw [toNat_field] at htag hzeros
  rw [toNat_field, toNat_field]
  simp only [BitVec.toNat_ofNat] at htag hzeros
  omega

/-- R523: the header of a leaf is its SYM and fixed bits. -/
theorem eq_leafHeader_of_fields {w : Word} (htag : w.extractLsb' 28 4 = 0xA#4) (hbit : w.getLsbD 27 = false)
    (hzeros : w.extractLsb' 8 16 = 0#16) (hflags : w.extractLsb' 24 3 = 0b100#3) :
    w = leafHeader (w.extractLsb' 0 8) := by
  apply BitVec.eq_of_toNat_eq
  rw [toNat_leafHeader, toNat_nodeHeader htag hbit hzeros, hflags]
  rfl

/-- R523: the header of an internal node is a fixed word. -/
theorem eq_innerHeader_of_fields {w : Word} (htag : w.extractLsb' 28 4 = 0xA#4) (hbit : w.getLsbD 27 = false)
    (hzeros : w.extractLsb' 8 16 = 0#16) (hflags : w.extractLsb' 24 3 = 0b011#3)
    (hsym : w.extractLsb' 0 8 = 0#8) : w = innerHeader := by
  apply BitVec.eq_of_toNat_eq
  rw [toNat_nodeHeader htag hbit hzeros, hflags, hsym]
  rfl

/-- The fields that the parse looks at in an internal node's header (R523, R529). -/
theorem innerHeader_fields :
    innerHeader.extractLsb' 28 4 = 0xA#4 ∧ innerHeader.getLsbD 27 = false ∧
      innerHeader.extractLsb' 8 16 = 0#16 ∧ innerHeader.extractLsb' 24 3 = 0b011#3 ∧
      innerHeader.extractLsb' 0 8 = 0#8 := by
  decide

theorem headerOk_iff (w : Word) : headerOk w = true ↔
    w.extractLsb' 16 16 = 0x4854#16 ∧ w.extractLsb' 12 4 = 1#4 ∧ w.extractLsb' 10 2 = 0#2 ∧
      (w.extractLsb' 0 10).toNat ≤ Config.maxNodes := by
  simp only [headerOk, Bool.and_eq_true, beq_iff_eq, decide_eq_true_eq, and_assoc]

/-- R522: an accepted stream header is its fixed bits and COUNT. -/
theorem eq_imageHeader_of_headerOk {w : Word} (h : headerOk w = true) : w = imageHeader (headerCount w) := by
  obtain ⟨hmagic, hversion, hzeros, hcount⟩ := (headerOk_iff w).1 h
  have hmagic := congrArg BitVec.toNat hmagic
  have hversion := congrArg BitVec.toNat hversion
  have hzeros := congrArg BitVec.toNat hzeros
  apply BitVec.eq_of_toNat_eq
  rw [headerCount, toNat_imageHeader hcount]
  rw [toNat_field] at hmagic hversion hzeros ⊢
  simp only [BitVec.toNat_ofNat] at hmagic hversion hzeros
  omega

/-! ### The parse of one record

One lemma for each kind of header word: none within the image, a bad one, a leaf's, an internal node's. -/

/-- R531: a record that COUNT does not allow is missed at the word of its header. -/
theorem parseNode_of_end {img : Nat → Word} {endw p : Nat} (hend : endw ≤ 1 + 2 * p) (depth : Nat)
    (seen : List Byte) : parseNode img endw depth p seen = .error (1 + 2 * p) := by
  cases depth with
  | zero => rfl
  | succ depth => rw [parseNode, if_pos hend]

section
variable {img : Nat → Word} {endw p : Nat} (hin : 1 + 2 * p < endw) (depth : Nat) (seen : List Byte)
include hin

/-- R531: any header word but those of R523 is a violation. -/
theorem parseNode_of_badHeader (hinner : img (1 + 2 * p) ≠ innerHeader)
    (hleaf : ∀ sym, img (1 + 2 * p) ≠ leafHeader sym) :
    parseNode img endw (depth + 1) p seen = .error (1 + 2 * p) := by
  rw [parseNode, if_neg (Nat.not_le.2 hin)]
  dsimp only
  split
  · rfl
  rename_i hfixed
  simp only [not_or, not_not, Bool.not_eq_true] at hfixed
  obtain ⟨htag, hbit, hzeros⟩ := hfixed
  split
  · rename_i hflags
    exact absurd (eq_leafHeader_of_fields htag hbit hzeros hflags) (hleaf _)
  split
  · rename_i hflags
    rw [if_pos fun hsym => hinner (eq_innerHeader_of_fields htag hbit hzeros hflags hsym)]
  · rfl

theorem parseNode_of_leafHeader {sym : Byte} (hheader : img (1 + 2 * p) = leafHeader sym) :
    parseNode img endw (depth + 1) p seen =
      if img (2 + 2 * p) = 0#32 then .error (2 + 2 * p)
      else if sym ∈ seen then .error (1 + 2 * p)
      else .ok (.leaf sym (img (2 + 2 * p)), p + 1, sym :: seen) := by
  obtain ⟨htag, hbit, hzeros, hflags, hfield⟩ := leafHeader_fields sym
  have hnext : 1 + 2 * p + 1 = 2 + 2 * p := by omega
  rw [parseNode, if_neg (Nat.not_le.2 hin)]
  simp only [hheader, hnext, htag, hbit, hzeros, hflags, hfield, ne_eq, not_true, or_self,
    Bool.false_eq_true, if_false, if_true]

theorem parseNode_of_innerHeader (hheader : img (1 + 2 * p) = innerHeader) :
    parseNode img endw (depth + 1) p seen = (do
      let (l, p1, seen1) ← parseNode img endw depth (p + 1) seen
      let (r, p2, seen2) ← parseNode img endw depth p1 seen1
      if (img (2 + 2 * p)).toNat = l.freq.toNat + r.freq.toNat then
        .ok (.node (img (2 + 2 * p)) l r, p2, seen2)
      else .error (2 + 2 * p)) := by
  obtain ⟨htag, hbit, hzeros, hflags, hfield⟩ := innerHeader_fields
  have hnext : 1 + 2 * p + 1 = 2 + 2 * p := by omega
  have hnotleaf : ¬ 0b011#3 = 0b100#3 := by decide
  rw [parseNode, if_neg (Nat.not_le.2 hin)]
  simp only [hheader, hnext, htag, hbit, hzeros, hflags, hfield, hnotleaf, ne_eq, not_true, or_self,
    Bool.false_eq_true, if_false, if_true]
  rcases parseNode img endw depth (p + 1) seen with e | ⟨l, p1, seen1⟩
  · rfl
  rcases hr : parseNode img endw depth p1 seen1 with e | ⟨r, p2, seen2⟩ <;>
    simp [hr, bind, Except.bind]

end
end Machine
end Sys2Proof

namespace Sys2Proof
namespace Machine

/-! ### The subtrees of a tree, by the number of their first record -/

/-- Subtree number `k` has its own subtrees from number `k` on. -/
theorem HTree.subtrees_prefix {h v : HTree} {k : Nat} (hk : h.subtrees[k]? = some v) :
    v.subtrees <+: h.subtrees.drop k := by
  induction h generalizing k with
  | leaf sym f =>
    cases k with
    | zero => cases hk; exact List.prefix_rfl
    | succ k => cases hk
  | node f l r ihl ihr =>
    cases k with
    | zero => cases hk; exact List.prefix_rfl
    | succ k =>
      simp only [HTree.subtrees, List.getElem?_cons_succ, List.drop_succ_cons, List.drop_append] at hk ⊢
      by_cases hl : k < l.subtrees.length
      · rw [List.getElem?_append_left hl] at hk
        exact (ihl hk).trans (List.prefix_append ..)
      · rw [List.getElem?_append_right (Nat.not_lt.1 hl)] at hk
        rw [List.drop_eq_nil_of_le (Nat.not_lt.1 hl), List.nil_append]
        exact ihr hk

/-- The subtrees of an internal node are numbered after it, LEFT before RIGHT (R521). -/
theorem HTree.subtrees_children {h l r : HTree} {f : Word} {k : Nat} (hk : h.subtrees[k]? = some (.node f l r)) :
    h.subtrees[k + 1]? = some l ∧ h.subtrees[k + 1 + l.size]? = some r := by
  obtain ⟨rest, hrest⟩ := HTree.subtrees_prefix hk
  have hget : ∀ i, h.subtrees[k + i]? = ((HTree.node f l r).subtrees ++ rest)[i]? := fun i => by
    rw [hrest, List.getElem?_drop]
  simp only [HTree.subtrees, List.cons_append, List.append_assoc] at hget
  constructor
  · rw [hget, List.getElem?_cons_succ,
      List.getElem?_append_left (by rw [l.subtrees_length]; exact l.one_le_size), l.subtrees_zero]
  · rw [Nat.add_assoc, hget, Nat.add_comm 1, List.getElem?_cons_succ,
      List.getElem?_append_right (by simp), l.subtrees_length, Nat.sub_self,
      List.getElem?_append_left (by rw [r.subtrees_length]; exact r.one_le_size), r.subtrees_zero]

@[simp] theorem HTree.symbolsBefore_zero (h : HTree) : h.symbolsBefore 0 = [] := rfl

theorem HTree.symbolsBefore_size (h : HTree) : h.symbolsBefore h.size = h.symbols := by
  rw [HTree.symbolsBefore, List.take_of_length_le (Nat.le_of_eq h.subtrees_length)]
  induction h with
  | leaf sym f => rfl
  | node f l r ihl ihr => simp [HTree.subtrees, HTree.symbols, ihl, ihr]

/-- The records of a subtree add its symbols to those before. -/
theorem HTree.symbolsBefore_subtree {h v : HTree} {k : Nat} (hk : h.subtrees[k]? = some v) :
    h.symbolsBefore (k + v.size) = h.symbolsBefore k ++ v.symbols := by
  have htake : (h.subtrees.drop k).take v.size = v.subtrees := by
    rw [← v.subtrees_length]
    exact List.prefix_iff_eq_take.1 (HTree.subtrees_prefix hk) |>.symm
  rw [HTree.symbolsBefore, HTree.symbolsBefore, List.take_add, htake, List.filterMap_append,
    ← v.symbolsBefore_size, HTree.symbolsBefore, List.take_of_length_le (Nat.le_of_eq v.subtrees_length)]

/-- The record of an internal node adds no symbol. -/
theorem HTree.symbolsBefore_succ_node {h l r : HTree} {f : Word} {k : Nat}
    (hk : h.subtrees[k]? = some (.node f l r)) : h.symbolsBefore (k + 1) = h.symbolsBefore k := by
  simp [HTree.symbolsBefore, List.take_add_one, hk]

/-! ### An image that begins with some records of a tree

The image begins with the first `p` records of `h`, which pass every check by themselves; the symbols that the
parse has seen before record `k` are `h.symbolsBefore k`, the last one first. -/

/-- The words of the first `p` records of `h`, and the checks on the leaves among them (R531). -/
structure BeginsWith (img : Nat → Word) (h : HTree) (p : Nat) : Prop where
  records : ∀ j u, j < p → h.subtrees[j]? = some u → img (1 + 2 * j) = u.header ∧ img (2 + 2 * j) = u.freq
  leaves : h.leavesGoodBefore p

section
variable {img : Nat → Word} {h : HTree} {p : Nat} (hb : BeginsWith img h p)
include hb

/-- A leaf among the first `p` records has a count and a symbol that is new to the parse. -/
theorem BeginsWith.leaf_good {k : Nat} (hk : k < p) {sym : Byte} {f : Word}
    (hleaf : h.subtrees[k]? = some (.leaf sym f)) : f ≠ 0#32 ∧ sym ∉ h.symbolsBefore k := by
  obtain ⟨hcount, hsyms⟩ := hb.leaves
  constructor
  · exact hcount sym f (List.mem_of_getElem? ((List.getElem?_take_of_lt hk).trans hleaf))
  · have hprefix : h.symbolsBefore (k + 1) <+: h.symbolsBefore p :=
      (List.take_prefix_take_left hk).filterMap _
    have hsplit : h.symbolsBefore (k + 1) = h.symbolsBefore k ++ [sym] := HTree.symbolsBefore_subtree hleaf
    have hd := hsyms.sublist hprefix.sublist
    rw [hsplit] at hd
    exact fun hmem => List.disjoint_of_nodup_append hd hmem List.mem_cons_self

variable {n : Nat} (hpn : p ≤ n)
include hpn

theorem BeginsWith.parseNode_leaf {k : Nat} (hk : k < p) {sym : Byte} {f : Word}
    (hleaf : h.subtrees[k]? = some (.leaf sym f)) (depth : Nat) :
    parseNode img (1 + 2 * n) (depth + 1) k (h.symbolsBefore k).reverse =
      .ok (.leaf sym f, k + 1, (h.symbolsBefore (k + 1)).reverse) := by
  obtain ⟨hheader, hfreq⟩ := hb.records k _ hk hleaf
  obtain ⟨hcount, hnew⟩ := hb.leaf_good hk hleaf
  have hsplit : h.symbolsBefore (k + 1) = h.symbolsBefore k ++ [sym] := HTree.symbolsBefore_subtree hleaf
  rw [parseNode_of_leafHeader (by omega) _ _ (hheader.trans (leafHeader_eq sym).symm), hfreq, HTree.freq,
    if_neg hcount, if_neg (by simpa using hnew), hsplit, List.reverse_append]
  rfl

/-- Once the left subtree of an internal node is parsed, the right one and the sum decide. -/
theorem BeginsWith.parseNode_node {k : Nat} (hk : k < p) {f : Word} {l r : HTree}
    (hnode : h.subtrees[k]? = some (.node f l r)) (depth : Nat) :
    parseNode img (1 + 2 * n) (depth + 1) k (h.symbolsBefore k).reverse = (do
      let (l', p1, seen1) ← parseNode img (1 + 2 * n) depth (k + 1) (h.symbolsBefore (k + 1)).reverse
      let (r', p2, seen2) ← parseNode img (1 + 2 * n) depth p1 seen1
      if f.toNat = l'.freq.toNat + r'.freq.toNat then .ok (.node f l' r', p2, seen2)
      else .error (2 + 2 * k)) := by
  obtain ⟨hheader, hfreq⟩ := hb.records k _ hk hnode
  rw [parseNode_of_innerHeader (by omega) _ _ hheader, hfreq, HTree.symbolsBefore_succ_node hnode]
  rfl

variable (hn : n ≤ 511)
include hn

/-- A subtree whose records are among the first `p`, with exact sums, is parsed. -/
theorem BeginsWith.parseNode_subtree {v : HTree} {k depth : Nat} (hk : h.subtrees[k]? = some v)
    (hend : k + v.size ≤ p) (hdepth : 512 ≤ depth + k)
    (hsums : ∀ j u, h.subtrees[j]? = some u → k ≤ j → j + u.size ≤ k + v.size → u.sumExact = true) :
    parseNode img (1 + 2 * n) depth k (h.symbolsBefore k).reverse =
      .ok (v, k + v.size, (h.symbolsBefore (k + v.size)).reverse) := by
  have hkp : k < p := Nat.lt_of_lt_of_le (Nat.lt_add_of_pos_right v.one_le_size) hend
  obtain ⟨depth, rfl⟩ : ∃ d, depth = d + 1 := Nat.exists_eq_add_of_le' (by omega)
  induction v generalizing k depth with
  | leaf sym f => exact hb.parseNode_leaf hpn hkp hk depth
  | node f l r ihl ihr =>
    obtain ⟨hl, hr⟩ := HTree.subtrees_children hk
    have hlpos := l.one_le_size
    have hrpos := r.one_le_size
    have hsum : f.toNat = l.freq.toNat + r.freq.toNat := by simpa [HTree.sumExact] using hsums k _ hk
    simp only [HTree.size] at hend hsums ⊢
    obtain ⟨depth, rfl⟩ : ∃ d, depth = d + 1 := Nat.exists_eq_add_of_le' (by omega)
    have hleft := ihl hl (by omega) (fun j u hu hj hju => hsums j u hu (by omega) (by omega)) (by omega) depth
      (by omega)
    have hright := ihr hr (by omega) (fun j u hu hj hju => hsums j u hu (by omega) (by omega)) (by omega) depth
      (by omega)
    rw [hb.parseNode_node hpn hkp hk, hleft]
    simp only [bind, Except.bind, hright, hsum, if_true]
    rw [show k + 1 + l.size + r.size = k + (1 + l.size + r.size) by omega]

/-- A violation that the parse meets at record `j` of the tree, all sums before it being exact, is the one it
reports. -/
theorem BeginsWith.parseNode_error {v : HTree} {j k depth e : Nat} (hj : j ≤ p)
    (hsums : ∀ i u, h.subtrees[i]? = some u → i + u.size ≤ j → u.sumExact = true)
    (herror : ∀ d, 512 ≤ d + j → parseNode img (1 + 2 * n) d j (h.symbolsBefore j).reverse = .error e)
    (hk : h.subtrees[k]? = some v) (hkj : k ≤ j) (hjv : j < k + v.size) (hdepth : 512 ≤ depth + k) :
    parseNode img (1 + 2 * n) depth k (h.symbolsBefore k).reverse = .error e := by
  induction v generalizing k depth with
  | leaf sym f =>
    obtain rfl : k = j := by simp only [HTree.size] at hjv; omega
    exact herror depth hdepth
  | node f l r ihl ihr =>
    obtain rfl | hlt := Nat.eq_or_lt_of_le hkj
    · exact herror depth hdepth
    obtain ⟨hl, hr⟩ := HTree.subtrees_children hk
    obtain ⟨depth, rfl⟩ : ∃ d, depth = d + 1 := Nat.exists_eq_add_of_le' (by omega)
    simp only [HTree.size] at hjv
    rw [hb.parseNode_node hpn (by omega) hk]
    by_cases hjl : j < k + 1 + l.size
    · rw [ihl hl hlt hjl (by omega)]
      rfl
    · have hleft := hb.parseNode_subtree hpn hn (depth := depth) hl (by omega) (by omega)
        fun i u hu _ hi => hsums i u hu (by omega)
      have hright := ihr (depth := depth) hr (by omega) (by omega) (by omega)
      simp only [hleft, hright, bind, Except.bind]

end
end Machine
end Sys2Proof

namespace Sys2Proof
namespace Machine

/-! ### What DES_RUN answers -/

theorem exec_desRun_of_error {s : State} {pos : Nat} (hp : parseImage s.serWord = .error pos) :
    exec .desRun s = .next (raise .serializationFormat (word pos) 0x63#8 s.drawn) := by
  rw [exec, execDesRun, hp, desRunResult]

theorem exec_desRun_of_empty {s : State} (hp : parseImage s.serWord = .ok none) :
    exec .desRun s = .next (complete 0x63#8 0#32 0#32 (unloadTree s.drawn)) := by
  rw [exec, execDesRun, hp, desRunResult]

theorem exec_desRun_of_tree {s : State} {t : HTree} (hp : parseImage s.serWord = .ok (some t)) :
    exec .desRun s = .next (reloadedState s t) := by
  rw [exec, execDesRun, hp, desRunResult, reloadedState]

/-- R531: a violation is reported with its index, and nothing else changes (but the draw counter, log 2). -/
theorem desRun_fails {s t : State} {pos : Nat} (h : exec .desRun s = .next t)
    (hp : parseImage s.serWord = .error pos) :
    t = { raisedState .serializationFormat (word pos) 0x63#8 s with draws := t.draws } := by
  cases (exec_desRun_of_error hp).symm.trans h
  rfl

/-! ### The first violation -/

/-- R522, R531: each field of the stream header is checked. -/
theorem parseImage_of_badHeader {img : Nat → Word}
    (h : (img 0).extractLsb' 16 16 ≠ 0x4854#16 ∨ (img 0).extractLsb' 12 4 ≠ 1#4 ∨
      (img 0).extractLsb' 10 2 ≠ 0#2 ∨ 511 < ((img 0).extractLsb' 0 10).toNat) :
    parseImage img = .error 0 := by
  have hok : headerOk (img 0) = false := by
    rw [← Bool.not_eq_true, headerOk_iff]
    rintro ⟨hmagic, hversion, hzeros, hcount⟩
    obtain hbad | hbad | hbad | hbad := h
    · exact hbad hmagic
    · exact hbad hversion
    · exact hbad hzeros
    · exact absurd hcount (Nat.not_le.2 hbad)
  rw [parseImage, if_pos hok]

section
variable {img : Nat → Word} {n : Nat} (hpos : 1 ≤ n) (hn : n ≤ 511) (hheader : img 0 = 0x48541000#32 ||| word n)
include hpos hn hheader

/-- With a good stream header of COUNT `n` the image is what its records are (R529). -/
theorem parseImage_of_header : parseImage img = (do
    let (t, p, _) ← parseNode img (1 + 2 * n) 512 0 []
    if p ≠ n then .error (1 + 2 * p) else .ok (some t)) := by
  obtain ⟨hok, hcount⟩ := imageHeader_fields hn
  rw [← imageHeader_eq hn] at hheader
  simp only [parseImage, hheader, hok, hcount, Nat.ne_of_gt hpos, Bool.true_eq_false, if_false]
  rcases parseNode img (1 + 2 * n) 512 0 [] with e | ⟨t, p, seen⟩ <;> rfl

variable {h : HTree} {p : Nat} (hb : BeginsWith img h p) (hpn : p ≤ n)
include hb hpn

/-- The violation that the parse meets at record `j` is the one of the image. -/
theorem BeginsWith.parseImage_error {j e : Nat} (hj : j ≤ p) (hjh : j < h.size)
    (hsums : ∀ i u, h.subtrees[i]? = some u → i + u.size ≤ j → u.sumExact = true)
    (herror : ∀ d, 512 ≤ d + 1 + j →
      parseNode img (1 + 2 * n) (d + 1) j (h.symbolsBefore j).reverse = .error e) :
    parseImage img = .error e := by
  have htop := hb.parseNode_error hpn hn (depth := 512) hj hsums
    (fun d hd => by
      obtain ⟨d, rfl⟩ : ∃ d', d = d' + 1 := Nat.exists_eq_add_of_le' (by omega)
      exact herror d hd)
    h.subtrees_zero (Nat.zero_le j) (by rwa [Nat.zero_add]) (Nat.le_refl _)
  rw [parseImage_of_header hpos hn hheader]
  rw [HTree.symbolsBefore_zero, List.reverse_nil] at htop
  rw [htop]
  rfl

/-- R531: COUNT is larger than the tree. -/
theorem BeginsWith.parseImage_count_too_large (hp : p = h.size) (hlt : p < n)
    (hsums : ∀ i u, h.subtrees[i]? = some u → i + u.size ≤ p → u.sumExact = true) :
    parseImage img = .error (1 + 2 * p) := by
  have htop := hb.parseNode_subtree hpn hn (depth := 512) h.subtrees_zero (by omega) (Nat.le_refl _)
    fun i u hu _ hi => hsums i u hu (by omega)
  rw [HTree.symbolsBefore_zero, List.reverse_nil, Nat.zero_add, ← hp] at htop
  rw [parseImage_of_header hpos hn hheader, htop]
  exact if_pos (Nat.ne_of_lt hlt)

/-- R531: the sum of record `j`, the first one that is not exact. -/
theorem BeginsWith.parseImage_sum_error {j : Nat} {u : HTree} (hju : h.subtrees[j]? = some u)
    (hend : j + u.size = p) (hinexact : u.sumExact = false)
    (hsums : ∀ k v, h.subtrees[k]? = some v → k + v.size < p ∨ (k + v.size = p ∧ j < k) → v.sumExact = true) :
    parseImage img = .error (2 + 2 * j) := by
  cases u with
  | leaf sym f => cases hinexact
  | node f l r =>
    simp only [HTree.size] at hend
    have hsum : ¬ f.toNat = l.freq.toNat + r.freq.toNat := by simpa [HTree.sumExact] using hinexact
    obtain ⟨hl, hr⟩ := HTree.subtrees_children hju
    have hrpos := r.one_le_size
    obtain ⟨hjlen, -⟩ := List.getElem?_eq_some_iff.1 hju
    rw [h.subtrees_length] at hjlen
    refine hb.parseImage_error hpos hn hheader hpn (by omega) hjlen
      (fun i v hv hi => hsums i v hv (.inl (by omega))) fun d hd => ?_
    have hleft := hb.parseNode_subtree hpn hn (depth := d) hl (by omega) (by omega)
      fun i v hv hi hiv => hsums i v hv (by omega)
    have hright := hb.parseNode_subtree hpn hn (depth := d) hr (by omega) (by omega)
      fun i v hv hi hiv => hsums i v hv (by omega)
    rw [hb.parseNode_node hpn (by omega) hju, hleft]
    simp only [bind, Except.bind, hright, hsum, if_false]

end

/-- Settles O53: the records before the violation are parsed one subtree after the other, and the violation is then
the one of the lemma for its kind. -/
theorem desRunReportsTheFirstViolation : Obligations.DesRunReportsTheFirstViolation := by
  refine fun s => ⟨_, rfl, fun hw => desRun_fails rfl (parseImage_of_badHeader hw), ?_⟩
  intro h p n hpos hn hheader hpn hph hrecords hleaves
  have hb : BeginsWith s.serWord h p := ⟨hrecords, hleaves⟩
  refine ⟨fun hsums => ⟨?beyondCount, ?atRecord, ?tooFewNodes⟩, ?inexactSum⟩
  case beyondCount =>
    rintro hlt rfl
    exact desRun_fails rfl (hb.parseImage_error hpos hn hheader hpn (Nat.le_refl _) hlt hsums fun d _ =>
      parseNode_of_end (Nat.le_refl _) _ _)
  case atRecord =>
    intro hlt hltn hw f
    have hin : 1 + 2 * p < 1 + 2 * n := by omega
    have herror {e : Nat} := hb.parseImage_error (e := e) hpos hn hheader hpn (Nat.le_refl _) hlt hsums
    refine ⟨fun hinner hleaf => desRun_fails rfl (herror fun d _ => ?_), fun sym hw => ?_⟩
    · exact parseNode_of_badHeader hin _ _ hinner fun sym => leafHeader_eq sym ▸ hleaf sym
    have hleaf : s.serWord (1 + 2 * p) = leafHeader sym := hw.trans (leafHeader_eq sym).symm
    refine ⟨fun hf => desRun_fails rfl (herror fun d _ => ?_),
      fun hf hsym => desRun_fails rfl (herror fun d _ => ?_)⟩
    · rw [parseNode_of_leafHeader hin _ _ hleaf, if_pos hf]
    · rw [parseNode_of_leafHeader hin _ _ hleaf, if_neg hf, if_pos (List.mem_reverse.2 hsym)]
  case tooFewNodes =>
    exact fun hp hlt => desRun_fails rfl (hb.parseImage_count_too_large hpos hn hheader hpn hp hlt hsums)
  case inexactSum =>
    exact fun j u hju hend hinexact hbefore =>
      desRun_fails rfl (hb.parseImage_sum_error hpos hn hheader hpn hju hend hinexact hbefore)

end Machine
end Sys2Proof

namespace Sys2Proof
namespace Machine

/-! ### The image in the terms of the arena -/

/-- The records that SER_BUILD emits are those of the entries that the walk meets (R523, R524). -/
theorem records_of_reachedEntries {arena : List Node} {d : Nat} {i : NodeIdx} {t : HTree}
    (h : readTree arena d i = .ok t) :
    ((reachedEntries arena d i).flatMap fun e => [recordHeader e, e.freq]) = t.records := by
  induction d generalizing i t with
  | zero => cases h
  | succ d ih =>
    obtain ⟨sym, f, he, rfl⟩ | ⟨f, l, r, tl, tr, he, hl, hr, rfl⟩ := readTree_cases h
    · rw [reachedEntries_of_leaf he, HTree.records, leafHeader_eq]
      rfl
    · rw [reachedEntries_of_inner he, List.flatMap_cons, List.flatMap_append, ih hl, ih hr]
      rfl

theorem word_toNat_eq_zext32 (v : BitVec 9) : word v.toNat = zext32 v := BitVec.ofNat_toNat ..

section
variable {s : State} (h : TreeLaw s)
include h

theorem TreeLaw.reachedEntries_length :
    (reachedEntries s.arena Config.maxNodes s.root).length = s.nnodes.toNat := by
  rw [h.reachedEntries_perm.length_eq, h.arena_length]

variable {t : HTree} (ht : s.tree = .ok t)
include ht

theorem TreeLaw.imageWords_eq :
    imageWords (reachedEntries s.arena Config.maxNodes s.root) = imageHeader t.size :: t.records := by
  rw [imageWords, records_of_reachedEntries ht, h.reachedEntries_length, ← h.size_eq ht,
    imageHeader_eq (h.tree_size_le ht)]

/-- SER_BUILD writes no word after the image. -/
theorem TreeLaw.lookup_serializedState_beyond {j : Nat} (hj : 2 * s.nnodes.toNat < j) :
    (serializedState s t).serbuf.lookup j = s.serbuf.lookup j := by
  refine Memory.lookup_writeFrom_outside s.serbuf 0 _ (.inr ?_)
  rw [List.length_cons, t.records_length, h.size_eq ht]
  omega

end

theorem exec_serBuild_of_no_tree {s : State} (hv : s.treeValid = false) : exec .serBuild s =
    .next (complete 0x60#8 1#32 0#32 { s with serbuf := s.serbuf.write 0 (imageHeader 0) }) := by
  rw [exec, execSerBuild, if_pos hv]

/-- Settles O47: the image of the tree that the walk from ROOT reads is that of the entries it meets. -/
theorem serBuildWritesTheImage : Obligations.SerBuildWritesTheImage := by
  refine fun s => ⟨fun hv h => ?_, fun hv => ?_⟩
  · obtain ⟨t, ht⟩ := h.exists_tree
    refine ⟨serializedState s t, reachedEntries s.arena Config.maxNodes s.root, exec_serBuild_of_tree hv ht, rfl,
      h.reachedEntries_length, fun j w hw => ?_, fun j hj => h.lookup_serializedState_beyond ht hj, ?_, rfl⟩
    · rw [h.imageWords_eq ht] at hw
      exact h.lookup_serializedState ht hw
    · rw [← word_toNat_eq_zext32]
      exact complete_reports ..
  · exact ⟨_, exec_serBuild_of_no_tree hv, Memory.lookup_write_same ..,
      fun j hj => Memory.lookup_write_other _ _ (Nat.ne_of_gt hj), complete_reports .., rfl⟩

/-! ### One word of SERBUF -/

/-- Settles O48: the two cases are the branches of SER_READ. -/
theorem serReadReadsOneWord : Obligations.SerReadReadsOneWord := by
  refine fun s idx => ⟨fun hidx => ?_, fun hidx => ?_⟩
  · rw [exec, execSerRead, if_pos hidx, raise_eq_raisedState]
  · refine ⟨complete 0x61#8 (s.serWord idx.toNat) 0#32 s.drawn, ?_, fun w hw => serWord_of_lookup hw,
      complete_reports .., rfl⟩
    rw [exec, execSerRead, if_neg (Nat.not_lt.2 hidx)]

/-- Settles O49: the two cases are the branches of DES_WRITE. -/
theorem desWriteStoresOneWord : Obligations.DesWriteStoresOneWord := by
  refine fun s idx => ⟨fun hidx => ?_, fun hidx => ?_⟩
  · rw [exec, execDesWrite, if_pos hidx, raise_eq_raisedState]
  · refine ⟨complete 0x62#8 0#32 0#32 { s with serbuf := s.serbuf.write idx.toNat s.dataIn }, ?_,
      Memory.lookup_write_same .., fun j hj => Memory.lookup_write_other _ _ hj, complete_reports .., rfl⟩
    rw [exec, execDesWrite, if_neg (Nat.not_lt.2 hidx)]

/-! ### Loading a tree -/

/-- There are 256 symbols, so a tree that repeats none has at most 511 nodes (R143). -/
theorem HTree.size_le_of_nodup {t : HTree} (hd : t.symbols.Nodup) : t.size ≤ Config.maxNodes := by
  have hcard : Fintype.card Byte = 256 := FinEnum.card_eq_fintypeCard.symm.trans (FinEnum.card_bitVec 8)
  have hleaves : t.leaves ≤ 256 := by
    rw [← t.symbols_length, ← hcard]
    exact hd.length_le_card
  have hsize := t.size_add_one
  exact (by omega : t.size ≤ 511)

section
variable {t : HTree} (hsize : t.size ≤ Config.maxNodes) (s : State)
include hsize

theorem nnodes_reloadedState : (reloadedState s t).nnodes.toNat = t.size := by
  rw [reloadedState, complete_nnodes, loadTree_nnodes, t.layout_length, toNat_ofNat_nine hsize]

theorem nleaves_reloadedState : (reloadedState s t).nleaves.toNat = t.leaves := by
  have hleaves := t.size_add_one
  have hpos := t.one_le_size
  rw [reloadedState, complete_nleaves, loadTree_nleaves, toNat_ofNat_nine (by omega)]

theorem arena_reloadedState : (reloadedState s t).arena = t.layout 0 :=
  arena_loadTree (by rwa [t.layout_length]) 0#9 t.leaves s.drawn

theorem reach_reloadedState : reach (reloadedState s t).arena Config.maxNodes 0#9 = List.range t.size := by
  rw [arena_reloadedState hsize, List.range_eq_range']
  exact reach_layout (i := 0) ⟨[], List.append_nil _⟩ (by omega) hsize

end

theorem reloadedState_reports (s : State) (t : HTree) :
    Reports (reloadedState s t) 0x63#8 (word t.size) (word t.leaves) :=
  complete_reports ..

/-- What DES_RUN loads meets R144 (R532). -/
theorem treeLaw_reloadedState {t : HTree} (hsize : t.size ≤ Config.maxNodes) (hs : t.sumsExact = true)
    (hd : t.symbols.Nodup) (s : State) : TreeLaw (reloadedState s t) :=
  have hloaded := (lawfulArena_layout hsize hs hd).treeLaw_loadTree (leaves_of_layout t 0) s.drawn
  hloaded.congr ⟨rfl, rfl, rfl, rfl, rfl⟩

/-- Settles O50: the image parses to its tree, whose layout is then the arena. -/
theorem desRunLoadsTheImageOfATree : Obligations.DesRunLoadsTheImageOfATree := by
  intro s h hs hd himage
  have hsize := HTree.size_le_of_nodup hd
  exact ⟨reloadedState s h, exec_desRun_of_image himage hsize hs hd, tree_reloadedState hsize s, rfl, rfl,
    reach_reloadedState hsize s, nnodes_reloadedState hsize s, nleaves_reloadedState hsize s, rfl,
    codeAt_of_cleared rfl, rfl, rfl, reloadedState_reports s h, rfl⟩

/-! ### The empty image and whatever else SERBUF holds -/

theorem parseImage_of_empty {img : Nat → Word} (h : img 0 = imageHeader 0) : parseImage img = .ok none := by
  obtain ⟨hok, hcount⟩ := imageHeader_fields (n := 0) (Nat.zero_le _)
  simp [parseImage, h, hok, hcount]

/-- Settles O51: the empty image parses to no tree, and DES_RUN completes on the state that `unloadTree` leaves. -/
theorem desRunOfTheEmptyImageUnloads : Obligations.DesRunOfTheEmptyImageUnloads := fun _ h =>
  ⟨_, exec_desRun_of_empty (parseImage_of_empty (serWord_of_lookup h)), complete_reports ..,
    treeInfoWord_of_unloaded rfl rfl rfl rfl rfl, decInfoWord_of_unloaded rfl rfl, codeAt_of_cleared rfl, rfl, rfl⟩

/-- Settles O52, by what the parse finds: a violation, no tree, or a tree with exact sums and distinct symbols. -/
theorem desRunLoadsOnlyLawfulTrees : Obligations.DesRunLoadsOnlyLawfulTrees := by
  intro s
  rcases hp : parseImage s.serWord with pos | _ | h
  · exact ⟨_, exec_desRun_of_error hp, .inr rfl, nofun⟩
  · exact ⟨_, exec_desRun_of_empty hp, .inl rfl, fun _ =>
      ⟨treeRegistersLaw_of_no_tree rfl ⟨rfl, rfl, rfl, rfl⟩, rfl, nofun, complete_reports ..⟩⟩
  · obtain ⟨hsize, hs, hd⟩ := parseImage_ok_some hp
    refine ⟨_, exec_desRun_of_tree hp, .inl rfl, fun _ =>
      ⟨(treeLaw_reloadedState hsize hs hd s).treeRegistersLaw rfl, rfl, fun _ => rfl, ?_⟩⟩
    rw [← word_toNat_eq_zext32, ← word_toNat_eq_zext32, nnodes_reloadedState hsize, nleaves_reloadedState hsize]
    exact reloadedState_reports s h

end Machine
end Sys2Proof

namespace Sys2Proof
namespace Machine

/-! ### The image of a tree that has been parsed

An accepted image is the canonical one of its tree: the parse leaves no word of it open. -/

theorem HoldsAt.append {img : Nat → Word} {i k : Nat} {ws vs : List Word} (h : HoldsAt img i ws)
    (hk : k = i + ws.length) (h' : HoldsAt img k vs) : HoldsAt img i (ws ++ vs) := by
  subst hk
  intro j w hw
  by_cases hj : j < ws.length
  · exact h j w (by rwa [List.getElem?_append_left hj] at hw)
  · rw [List.getElem?_append_right (Nat.not_lt.1 hj)] at hw
    have := h' _ w hw
    rwa [Nat.add_assoc, Nat.add_sub_cancel' (Nat.not_lt.1 hj)] at this

theorem HoldsAt.cons {img : Nat → Word} {i : Nat} {w : Word} {ws : List Word} (hw : img i = w)
    (h : HoldsAt img (i + 1) ws) : HoldsAt img i (w :: ws) := by
  rintro (_ | j) v hv
  · cases hv
    exact hw
  · rw [Nat.add_comm j, ← Nat.add_assoc]
    exact h j v hv

/-- A parsed tree's records are the words that have been read (R529). -/
theorem records_of_parseNode {img : Nat → Word} {endw depth p p' : Nat} {seen seen' : List Byte} {t : HTree}
    (h : parseNode img endw depth p seen = .ok (t, p', seen')) : HoldsAt img (1 + 2 * p) t.records := by
  induction depth generalizing p p' seen seen' t with
  | zero => cases h
  | succ depth ih =>
    have hnext : 2 + 2 * p = 1 + 2 * p + 1 := by omega
    by_cases hend : endw ≤ 1 + 2 * p
    · rw [parseNode_of_end hend] at h
      cases h
    have hin := Nat.not_le.1 hend
    by_cases hinner : img (1 + 2 * p) = innerHeader
    · rw [parseNode_of_innerHeader hin _ _ hinner] at h
      rcases hl : parseNode img endw depth (p + 1) seen with e | ⟨l, p1, seen1⟩ <;> rw [hl] at h
      · cases h
      rcases hr : parseNode img endw depth p1 seen1 with e | ⟨r, p2, seen2⟩ <;>
        simp only [bind, Except.bind, hr] at h
      · cases h
      split at h
      · cases h
        obtain ⟨rfl, -, -, -⟩ := parseNode_ok hl
        exact .cons hinner (.cons (congrArg img hnext.symm)
          ((ih hl).append (by rw [l.records_length]; omega) (ih hr)))
      · cases h
    by_cases hleaf : ∃ sym, img (1 + 2 * p) = leafHeader sym
    · obtain ⟨sym, hleaf⟩ := hleaf
      rw [parseNode_of_leafHeader hin _ _ hleaf] at h
      split at h
      · cases h
      split at h
      · cases h
      cases h
      exact .cons hleaf (.cons (congrArg img hnext.symm) nofun)
    · rw [parseNode_of_badHeader hin _ _ hinner (not_exists.1 hleaf)] at h
      cases h

/-- An accepted image is the one that SER_BUILD writes for what was parsed (R535). -/
theorem image_of_parseImage {img : Nat → Word} {found : Option HTree} (h : parseImage img = .ok found) :
    (found = none ∧ img 0 = imageHeader 0) ∨
      ∃ t, found = some t ∧ HoldsAt img 0 (imageHeader t.size :: t.records) := by
  simp only [parseImage] at h
  split at h
  · cases h
  rename_i hok
  have hheader := eq_imageHeader_of_headerOk (Bool.not_eq_false _ ▸ hok)
  split at h
  · rename_i hcount
    rw [hcount] at hheader
    cases h
    exact .inl ⟨rfl, hheader⟩
  split at h
  · cases h
  rename_i t p seen hparse
  split at h
  · cases h
  rename_i hp
  cases h
  obtain ⟨hsize, -, -, -⟩ := parseNode_ok hparse
  rw [← not_not.1 hp, hsize, Nat.zero_add] at hheader
  exact .inr ⟨t, rfl, .cons hheader (records_of_parseNode hparse)⟩

/-- Settles O55: what was parsed is the canonical image of the tree loaded, which SER_BUILD writes. -/
theorem imageRoundTrip : Obligations.ImageRoundTrip := by
  intro s t hrun hok
  rcases hp : parseImage s.serWord with pos | found
  · cases (exec_desRun_of_error hp).symm.trans hrun
    cases hok
  obtain ⟨rfl, hempty⟩ | ⟨h, rfl, hholds⟩ := image_of_parseImage hp
  · cases (exec_desRun_of_empty hp).symm.trans hrun
    refine ⟨_, exec_serBuild_of_no_tree rfl, fun j hj => ?_⟩
    obtain rfl := Nat.le_zero.1 hj
    rw [hempty]
    exact Memory.lookup_write_same ..
  · obtain ⟨hsize, hs, hd⟩ := parseImage_ok_some hp
    cases (exec_desRun_of_tree hp).symm.trans hrun
    refine ⟨_, exec_serBuild_of_tree rfl (tree_reloadedState hsize s), fun j hj => ?_⟩
    rw [nnodes_reloadedState hsize] at hj
    obtain ⟨w, hw⟩ : ∃ w, (imageHeader h.size :: h.records)[j]? = some w :=
      ⟨_, List.getElem?_eq_getElem (by rw [List.length_cons, h.records_length]; omega)⟩
    rw [(treeLaw_reloadedState hsize hs hd s).lookup_serializedState (tree_reloadedState hsize s) hw,
      ← hholds j w hw, Nat.zero_add]

end Machine
end Sys2Proof

namespace Sys2Proof
namespace Machine

/-! ### Writing the same words again -/

theorem Memory.write_write_same (m : Memory) (i : Nat) (w : Word) : (m.write i w).write i w = m.write i w := by
  induction m with
  | nil => simp [Memory.write]
  | cons c m ih =>
    obtain ⟨j, v⟩ := c
    simp only [Memory.write]
    split
    · simp [Memory.write]
    split
    · simp [Memory.write]
    · rename_i hlt hne
      simp only [Memory.write, if_neg hlt, if_neg hne, ih]

/-- A word that stands in SERBUF still stands there after a write at a higher index. -/
theorem Memory.write_of_write_above {m : Memory} {k i : Nat} {v w : Word} (h : m.write k v = m) (hlt : k < i) :
    (m.write i w).write k v = m.write i w := by
  induction m with
  | nil => cases h
  | cons c m ih =>
    obtain ⟨j, u⟩ := c
    obtain hkj | rfl | hjk := Nat.lt_trichotomy k j
    · rw [Memory.write, if_pos hkj] at h
      exact absurd (congrArg Prod.fst (List.cons.inj h).1) (Nat.ne_of_lt hkj)
    · rw [Memory.write, if_neg (Nat.lt_irrefl k), if_pos rfl] at h
      cases (List.cons.inj h).1
      simp [Memory.write, Nat.lt_asymm hlt, Nat.ne_of_gt hlt]
    · simp only [Memory.write, if_neg (Nat.lt_asymm hjk), if_neg (Nat.ne_of_gt hjk)] at h
      have hij := Nat.lt_trans hjk hlt
      simp only [Memory.write, if_neg (Nat.lt_asymm hij), if_neg (Nat.ne_of_gt hij), if_neg (Nat.lt_asymm hjk),
        if_neg (Nat.ne_of_gt hjk), ih (List.cons.inj h).2]

theorem Memory.write_of_writeFrom_above {m : Memory} {k i : Nat} {v : Word} (h : m.write k v = m) (hlt : k < i)
    (ws : List Word) : (m.writeFrom i ws).write k v = m.writeFrom i ws := by
  induction ws generalizing m i with
  | nil => exact h
  | cons w ws ih => exact ih (Memory.write_of_write_above h hlt) (Nat.lt_succ_of_lt hlt)

/-- Words that already stand in SERBUF are written without effect. -/
theorem Memory.writeFrom_eq_self {m : Memory} {i : Nat} {ws : List Word}
    (h : ∀ j w, ws[j]? = some w → m.write (i + j) w = m) : m.writeFrom i ws = m := by
  induction ws generalizing i with
  | nil => rfl
  | cons w ws ih =>
    have hfirst : m.write i w = m := h 0 w rfl
    rw [Memory.writeFrom, hfirst]
    exact ih fun j v hv => by
      rw [Nat.add_assoc, Nat.add_comm 1]
      exact h (j + 1) v hv

theorem Memory.write_of_mem_writeFrom {m : Memory} {i j : Nat} {w : Word} {ws : List Word} (hw : ws[j]? = some w) :
    (m.writeFrom i ws).write (i + j) w = m.writeFrom i ws := by
  induction ws generalizing m i j with
  | nil => cases hw
  | cons v ws ih =>
    cases j with
    | zero =>
      cases hw
      exact Memory.write_of_writeFrom_above (Memory.write_write_same ..) (Nat.lt_succ_self i) ws
    | succ j =>
      rw [Nat.add_comm j, ← Nat.add_assoc]
      exact ih hw

/-- Writing an image again changes nothing. -/
theorem Memory.writeFrom_writeFrom_same (m : Memory) (i : Nat) (ws : List Word) :
    (m.writeFrom i ws).writeFrom i ws = m.writeFrom i ws :=
  Memory.writeFrom_eq_self fun _ _ => Memory.write_of_mem_writeFrom

/-! ### The Decoder on a tree

What the Decoder emits is a function of the tree and of the node it stands at, whatever the arena indices. -/

theorem entry_of_readTree_leaf {arena : List Node} {d : Nat} {i : NodeIdx} {sym : Byte} {f : Word}
    (h : readTree arena d i = .ok (.leaf sym f)) : arena[i.toNat]? = some (.leaf sym f) := by
  cases d with
  | zero => cases h
  | succ d =>
    obtain ⟨_, _, he, heq⟩ | ⟨_, _, _, _, _, _, _, _, heq⟩ := readTree_cases h <;> cases heq
    exact he

theorem entry_of_readTree_node {arena : List Node} {d : Nat} {i : NodeIdx} {f : Word} {tl tr : HTree}
    (h : readTree arena d i = .ok (.node f tl tr)) : ∃ l r d', arena[i.toNat]? = some (.inner f l r) ∧
      readTree arena d' l = .ok tl ∧ readTree arena d' r = .ok tr := by
  cases d with
  | zero => cases h
  | succ d =>
    obtain ⟨_, _, _, heq⟩ | ⟨_, l, r, _, _, he, hl, hr, heq⟩ := readTree_cases h <;> cases heq
    exact ⟨l, r, d, he, hl, hr⟩

theorem map_fst_feedBits_of_at {s : State} {b : Bool} {bs : List Bool} {node : NodeIdx} {out : Option Byte}
    {used : Nat} (h : dstep s s.decNode b 0 = .at node out used) :
    (feedBits (b :: bs) s).map Prod.fst =
      ((feedBits bs (walkedState 0x51#8 node out (zext32 node) s)).map Prod.fst).map (out.toList ++ ·) := by
  rw [feedBits, exec_decBit_of_at h]
  simp only [walkedState_lastErr, emittedBy_walkedState, if_true]
  cases feedBits bs (walkedState 0x51#8 node out (zext32 node) s) <;> rfl

/-- R504: on a degenerate tree a 0 bit emits the symbol, and a 1 bit does not succeed. -/
theorem map_fst_feedBits_leaf {s : State} (hv : s.treeValid = true) {sym : Byte} {f : Word}
    (ht : s.tree = .ok (.leaf sym f)) (bits : List Bool) :
    (feedBits bits s).map Prod.fst = if true ∈ bits then none else some (bits.map fun _ => sym) := by
  induction bits generalizing s with
  | nil => rfl
  | cons b bs ih =>
    have hstep := dstep_of_root_leaf hv (entry_of_readTree_leaf ht) s.decNode b 0
    cases b with
    | true => simp [feedBits, exec_decBit_of_err hstep, raisedState]
    | false =>
      rw [map_fst_feedBits_of_at hstep, ih (s := walkedState 0x51#8 s.root (some sym) (zext32 s.root) s) hv ht]
      by_cases hmem : true ∈ bs <;> simp [hmem]

/-- The symbols that the Decoder emits on the bits (R502), from a node with the children `l` and `r` in a tree
whose root has the children `l0` and `r0`. -/
def decodedSymbols (l0 r0 : HTree) : HTree → HTree → List Bool → List Byte
  | _, _, [] => []
  | l, r, b :: bs =>
      match if b then r else l with
      | .leaf sym _ => sym :: decodedSymbols l0 r0 l0 r0 bs
      | .node _ l' r' => decodedSymbols l0 r0 l' r' bs

theorem map_fst_feedBits_node {s : State} (hv : s.treeValid = true) {f0 f : Word} {l0 r0 l r : HTree}
    (ht : s.tree = .ok (.node f0 l0 r0)) {d : Nat} (hnode : readTree s.arena d s.decNode = .ok (.node f l r))
    (bits : List Bool) : (feedBits bits s).map Prod.fst = some (decodedSymbols l0 r0 l r bits) := by
  induction bits generalizing s f l r d with
  | nil => rfl
  | cons b bs ih =>
    obtain ⟨_, _, _, hroot, -⟩ := entry_of_readTree_node ht
    obtain ⟨li, ri, d', hentry, hl, hr⟩ := entry_of_readTree_node hnode
    have hchild : readTree s.arena d' (if b then ri else li) = .ok (if b then r else l) := by
      cases b with
      | false => exact hl
      | true => exact hr
    rw [decodedSymbols]
    rcases hc : (if b then r else l) with ⟨sym, g⟩ | ⟨g, l', r'⟩ <;> rw [hc] at hchild
    · have hstep := dstep_of_child_leaf hv hroot hentry (entry_of_readTree_leaf hchild) 0
      rw [map_fst_feedBits_of_at hstep,
        ih (s := walkedState 0x51#8 s.root (some sym) (zext32 s.root) s) hv ht ht]
      rfl
    · obtain ⟨_, _, _, hinner, -⟩ := entry_of_readTree_node hchild
      have hstep := dstep_of_child_inner hv hroot hentry hinner 0
      rw [map_fst_feedBits_of_at hstep,
        ih (s := walkedState 0x51#8 (if b then ri else li) none _ s) hv ht hchild]
      rfl

/-- After DEC_RESET the Decoder emits the same symbols on every bit sequence wherever the same tree is loaded
(R534). -/
theorem feedBits_of_same_tree {s u : State} (hs : s.treeValid = true) (hu : u.treeValid = true) {t : HTree}
    (hts : s.tree = .ok t) (htu : u.tree = .ok t) (hsroot : s.decNode = s.root) (huroot : u.decNode = u.root)
    (bits : List Bool) : (feedBits bits u).map Prod.fst = (feedBits bits s).map Prod.fst := by
  cases t with
  | leaf sym f => rw [map_fst_feedBits_leaf hs hts, map_fst_feedBits_leaf hu htu]
  | node f l r =>
    have hsnode : readTree s.arena Config.maxNodes s.decNode = .ok (.node f l r) := by rwa [hsroot]
    have hunode : readTree u.arena Config.maxNodes u.decNode = .ok (.node f l r) := by rwa [huroot]
    rw [map_fst_feedBits_node hs hts hsnode, map_fst_feedBits_node hu htu hunode]

/-! ### The round trip -/

/-- Settles O54: DES_RUN loads the tree that SER_BUILD has written, and all that follows is made of the tree. -/
theorem serializationRoundTrip : Obligations.SerializationRoundTrip := by
  intro s hv h
  obtain ⟨t, ht⟩ := h.exists_tree
  have hsize := h.tree_size_le ht
  have htu := tree_reloadedState hsize (serializedState s t)
  refine ⟨_, _, _, _, _, _, _, exec_serBuild_of_tree hv ht, h.exec_desRun_serializedState ht, rfl,
    htu.trans ht.symm, exec_serBuild_of_tree rfl htu, ?_, exec_genCodes_of_tree hv ht, exec_genCodes_of_tree rfl htu,
    rfl, rfl, rfl, feedBits_of_same_tree hv rfl ht htu rfl rfl⟩
  have hnnodes : (reloadedState (serializedState s t) t).nnodes.toNat = s.nnodes.toNat := by
    rw [nnodes_reloadedState hsize, h.size_eq ht]
  rw [serializedState, hnnodes]
  exact Memory.writeFrom_writeFrom_same ..

end Machine
end Sys2Proof

namespace Sys2Proof
namespace Machine

/-! ### What a failing command reports

`Raises` is the table of R600 and R601 with a constructor for each command that a row of it names; what makes a
command fail, and what it then reports, is read off from it. -/

/-- In the state `s` the command raises this error with this detail word, for the cause that the constructor
states. -/
inductive Raises (s : State) : Instr → ErrCode → Word → Prop
  | build : s.total = 0#32 → Raises s .build .emptyInput 0#32
  | encSymNoCode {sym : Byte} : s.codeAt sym = [] → Raises s (.encSym sym) .unknownSymbol (zext32 sym)
  | encSymFull {sym : Byte} : s.params.obufBits < s.obuf.length + (s.codeAt sym).length →
      Raises s (.encSym sym) .obufFull (word (s.codeAt sym).length)
  | decEnd : s.decNode ≠ s.root → Raises s .decEnd .truncatedStream (zext32 s.decNode)
  | decBitOne {sym : Byte} {f : Word} : s.nodeAt s.root = some (.leaf sym f) →
      Raises s (.decBit true) .truncatedStream 0x80000000#32
  | decWordOne {cnt : BitVec 6} {sym : Byte} {f : Word} : s.nodeAt s.root = some (.leaf sym f) →
      s.dataIn.getLsbD 31 = true → Raises s (.decWord cnt) .truncatedStream 0x80000000#32
  | desRun {pos : Nat} : parseImage s.serWord = .error pos →
      Raises s .desRun .serializationFormat (word pos)
  | nodeRead {idx : BitVec 10} : s.nnodes.toNat ≤ idx.toNat →
      Raises s (.nodeRead idx) .argRange (zext32 idx)
  | decWordRange {cnt : BitVec 6} : cnt.toNat = 0 ∨ 32 < cnt.toNat →
      Raises s (.decWord cnt) .argRange (zext32 cnt)
  | serRead {idx : BitVec 10} : 1022 < idx.toNat → Raises s (.serRead idx) .argRange (zext32 idx)
  | desWrite {idx : BitVec 10} : 1022 < idx.toNat → Raises s (.desWrite idx) .argRange (zext32 idx)
  | genCodes : s.treeValid = false → Raises s .genCodes .noTree 0#32
  | decBitNoTree {b : Bool} : s.treeValid = false → Raises s (.decBit b) .noTree 0#32
  | decWordNoTree {cnt : BitVec 6} : s.treeValid = false → Raises s (.decWord cnt) .noTree 0#32
  | freqCount {sym : Byte} : s.total = 0xFFFFFFFF#32 →
      Raises s (.freqCount sym) .countOverflow (zext32 sym)
  | freqWrite {sym : Byte} : Config.freqMax < totalAfterWrite s sym s.dataIn →
      Raises s (.freqWrite sym) .countOverflow (zext32 sym)

/-- With a tree loaded only a degenerate one makes a tree-walk step fail (R504). -/
theorem root_leaf_of_dstep_err {s : State} {i : NodeIdx} {b : Bool} {t : Nat} {e : ErrCode} {info : Word}
    (hv : s.treeValid = true) (h : dstep s i b t = .err e info) :
    ∃ sym f, s.nodeAt s.root = some (.leaf sym f) := by
  rw [dstep, if_neg (by simp [hv])] at h
  split at h
  next => cases h
  next sym f hroot => exact ⟨sym, f, hroot⟩
  next =>
    split at h
    · cases h
    · dsimp only at h
      split at h <;> cases h

/-- So only a degenerate one makes the loop of DEC_WORD fail. -/
theorem root_leaf_of_dwalk_err {s : State} {d : Word} {left t : Nat} {i : NodeIdx} {e : ErrCode} {info : Word}
    (hv : s.treeValid = true) (h : dwalk s d left t i = .err e info) :
    ∃ sym f, s.nodeAt s.root = some (.leaf sym f) := by
  induction left generalizing t i with
  | zero => cases h
  | succ left ih =>
    rw [dwalk] at h
    split at h
    · exact ih h
    · exact root_leaf_of_dstep_err hv h

section
variable {s t : State}

theorem raises_of_decBit {b : Bool} (h : exec (.decBit b) s = .next t) (hne : t.lastErr ≠ .ok) :
    Raises s (.decBit b) t.lastErr t.result0 := by
  cases hv : s.treeValid with
  | false =>
    cases (exec_decBit_of_err (dstep_of_no_tree hv s.decNode b 0)).symm.trans h
    exact .decBitNoTree hv
  | true =>
    rcases hw : dstep s s.decNode b 0 with ⟨node, out, used⟩ | ⟨e, info⟩ | f
    · cases (exec_decBit_of_at hw).symm.trans h
      exact absurd rfl hne
    · obtain ⟨sym, f, hroot⟩ := root_leaf_of_dstep_err hv hw
      rw [dstep_of_root_leaf hv hroot] at hw
      cases b <;> cases hw
      cases (exec_decBit_of_err (dstep_of_root_leaf hv hroot s.decNode true 0)).symm.trans h
      exact .decBitOne hroot
    · rw [exec, execDecBit, hw] at h
      cases h

/-- In a degenerate tree the first bit that DEC_WORD takes decides (R504). -/
theorem raises_of_decWord {cnt : BitVec 6} (h : exec (.decWord cnt) s = .next t) (hne : t.lastErr ≠ .ok) :
    Raises s (.decWord cnt) t.lastErr t.result0 := by
  by_cases hcnt : cnt.toNat = 0 ∨ 32 < cnt.toNat
  · cases (exec_decWord_of_range hcnt).symm.trans h
    exact .decWordRange hcnt
  have hpos : 1 ≤ cnt.toNat := by omega
  have hle : cnt.toNat ≤ 32 := by omega
  cases hv : s.treeValid with
  | false =>
    cases (exec_decWord_of_no_tree hpos hle hv).symm.trans h
    exact .decWordNoTree hv
  | true =>
    rcases hw : dwalk s s.dataIn cnt.toNat 0 s.decNode with ⟨node, out, used⟩ | ⟨e, info⟩ | f
    · cases (exec_decWord_of_at hpos hle hv hw).symm.trans h
      exact absurd rfl hne
    · obtain ⟨sym, f, hroot⟩ := root_leaf_of_dwalk_err hv hw
      obtain ⟨-, -, hzero, hone⟩ := degenerateTreeEmitsOnZeroOnly s sym f cnt hv hroot hpos hle
      cases hbit : s.dataIn.getLsbD 31 with
      | false =>
        obtain ⟨u, hu, ⟨-, hok, -⟩, -⟩ := hzero hbit
        cases hu.symm.trans h
        exact absurd hok hne
      | true =>
        cases (hone hbit).symm.trans h
        exact .decWordOne hroot hbit
    · rw [exec, execDecWord, if_neg hcnt, if_neg (by simp [hv]), hw] at h
      cases h

/-- Every failing command raises one of the errors of R600, for its cause and with its detail word (R601). -/
theorem raises_of_lastErr_ne_ok {i : Instr} (h : exec i s = .next t) (hne : t.lastErr ≠ .ok) :
    Raises s i t.lastErr t.result0 := by
  cases i with
  | nop | softReset | errClear | freqClear | freqRead | treeClear | codeRead | encClear | outPop
  | decReset =>
    cases h
    exact absurd rfl hne
  | decBit b => exact raises_of_decBit h hne
  | decWord cnt => exact raises_of_decWord h hne
  | freqCount sym =>
    rcases (Nat.le_of_lt_succ s.total.isLt).lt_or_eq with hlt | hfull
    · cases (exec_freqCount_of_lt hlt sym).symm.trans h
      exact absurd rfl hne
    · cases (exec_freqCount_of_full hfull sym).symm.trans h
      exact .freqCount ((total_eq_full_iff s).2 hfull)
  | freqWrite sym =>
    rcases Nat.lt_or_ge Config.freqMax (totalAfterWrite s sym s.dataIn) with hgt | hle
    · cases (exec_freqWrite_of_gt hgt).symm.trans h
      exact .freqWrite hgt
    · cases (exec_freqWrite_of_le hle).symm.trans h
      exact absurd rfl hne
  | build =>
    by_cases htotal : s.total = 0#32
    · cases (exec_build_of_no_count htotal).symm.trans h
      exact .build htotal
    · rw [exec, execBuild, if_neg htotal] at h
      split at h <;> cases h
      exact absurd rfl hne
  | nodeRead idx =>
    by_cases hidx : s.nnodes.toNat ≤ idx.toNat
    · cases (exec_nodeRead_of_le hidx).symm.trans h
      exact .nodeRead hidx
    · rw [exec, execNodeRead, if_neg hidx] at h
      split at h <;> cases h
      exact absurd rfl hne
  | genCodes =>
    cases hv : s.treeValid with
    | false =>
      cases (exec_genCodes_of_no_tree hv).symm.trans h
      exact .genCodes hv
    | true =>
      rw [exec, execGenCodes, if_neg (by simp [hv])] at h
      split at h <;> cases h
      exact absurd rfl hne
  | encSym sym =>
    by_cases hcode : s.codeAt sym = []
    · cases (exec_encSym_of_no_code hcode).symm.trans h
      exact .encSymNoCode hcode
    rcases Nat.lt_or_ge s.params.obufBits (s.obuf.length + (s.codeAt sym).length) with hfull | hfits
    · cases (exec_encSym_of_gt hcode hfull).symm.trans h
      exact .encSymFull hfull
    · cases (exec_encSym_of_le hcode hfits).symm.trans h
      exact absurd rfl hne
  | decEnd =>
    by_cases hnode : s.decNode = s.root
    · obtain ⟨u, hu, ⟨-, hok, -⟩, -⟩ := (decEndChecksTheCodeBoundary s).2 hnode
      cases hu.symm.trans h
      exact absurd hok hne
    · cases ((decEndChecksTheCodeBoundary s).1 hnode).symm.trans h
      exact .decEnd hnode
  | serBuild =>
    cases hv : s.treeValid with
    | false =>
      cases (exec_serBuild_of_no_tree hv).symm.trans h
      exact absurd rfl hne
    | true =>
      rw [exec, execSerBuild, if_neg (by simp [hv])] at h
      split at h <;> cases h
      exact absurd rfl hne
  | serRead idx =>
    rcases Nat.lt_or_ge 1022 idx.toNat with hgt | hle
    · cases ((serReadReadsOneWord s idx).1 hgt).symm.trans h
      exact .serRead hgt
    · obtain ⟨u, hu, -, ⟨-, hok, -⟩, -⟩ := (serReadReadsOneWord s idx).2 hle
      cases hu.symm.trans h
      exact absurd hok hne
  | desWrite idx =>
    rcases Nat.lt_or_ge 1022 idx.toNat with hgt | hle
    · cases ((desWriteStoresOneWord s idx).1 hgt).symm.trans h
      exact .desWrite hgt
    · obtain ⟨u, hu, -, -, ⟨-, hok, -⟩, -⟩ := (desWriteStoresOneWord s idx).2 hle
      cases hu.symm.trans h
      exact absurd hok hne
  | desRun =>
    rcases hp : parseImage s.serWord with pos | _ | tree
    · cases (exec_desRun_of_error hp).symm.trans h
      exact .desRun hp
    · cases (exec_desRun_of_empty hp).symm.trans h
      exact absurd rfl hne
    · cases (exec_desRun_of_tree hp).symm.trans h
      exact absurd rfl hne

end

/-- Only SERBUF's unusable index is out of its range (R526, R528). -/
theorem idx_eq_of_gt {idx : BitVec 10} (h : 1022 < idx.toNat) : idx.toNat = 1023 := by
  have := idx.isLt
  omega

/-- Settles O18: an error is one that `Raises` lists, and its cause stands there. -/
theorem eachErrorHasItsCause : Obligations.EachErrorHasItsCause := by
  intro i s t h
  by_cases hok : t.lastErr = .ok
  · rw [hok]
    trivial
  have hr := raises_of_lastErr_ne_ok h hok
  generalize t.lastErr = e at hr ⊢
  generalize t.result0 = info at hr
  cases hr with
  | build htotal => exact ⟨rfl, htotal⟩
  | encSymNoCode hcode => exact ⟨_, rfl, List.length_eq_zero_iff.2 hcode⟩
  | encSymFull hfull => exact ⟨_, rfl, hfull⟩
  | decEnd hnode => exact .inl ⟨rfl, hnode⟩
  | decBitOne hroot => exact .inr ⟨⟨_, _, hroot⟩, .inl rfl⟩
  | decWordOne hroot hbit => exact .inr ⟨⟨_, _, hroot⟩, .inr ⟨_, rfl, hbit⟩⟩
  | desRun hp => exact ⟨rfl, _, hp⟩
  | nodeRead hidx => exact .inl ⟨_, rfl, hidx⟩
  | decWordRange hcnt => exact .inr (.inl ⟨_, rfl, hcnt⟩)
  | serRead hidx => exact .inr (.inr ⟨_, .inl rfl, idx_eq_of_gt hidx⟩)
  | desWrite hidx => exact .inr (.inr ⟨_, .inr rfl, idx_eq_of_gt hidx⟩)
  | genCodes hv => exact ⟨hv, .inl rfl⟩
  | decBitNoTree hv => exact ⟨hv, .inr (.inl ⟨_, rfl⟩)⟩
  | decWordNoTree hv => exact ⟨hv, .inr (.inr ⟨_, rfl⟩)⟩
  | freqCount hfull => exact .inl ⟨_, rfl, hfull⟩
  | freqWrite hgt => exact .inr ⟨_, rfl, hgt⟩

/-- R602: a failing command leaves 0 in RESULT1. -/
theorem result1_of_lastErr_ne_ok {i : Instr} {s t : State} (h : exec i s = .next t)
    (hne : t.lastErr ≠ .ok) : t.result1 = 0#32 := by
  obtain ⟨e, info, u, -, -, rfl⟩ | ⟨r0, r1, u, -, rfl⟩ := exec_cases h
  · rfl
  · exact absurd rfl hne

/-- Settles O19: each row of R601 is the detail of the constructors of `Raises` for its commands and error. -/
theorem eachErrorHasItsDetailWord : Obligations.EachErrorHasItsDetailWord := by
  intro i s t h hne
  have hr := raises_of_lastErr_ne_ok h hne
  refine ⟨result1_of_lastErr_ne_ok h hne, ?_⟩
  generalize t.lastErr = e at hr ⊢
  generalize t.result0 = info at hr ⊢
  refine ⟨?noDetail, ?noCode, ?full, ?count, ?decEnd, ?degenerate, ?index, ?range, ?desRun⟩
  case noDetail => rintro (rfl | rfl) <;> cases hr <;> rfl
  case noCode => rintro sym rfl rfl; cases hr; rfl
  case full => rintro sym rfl rfl; cases hr; rfl
  case count => rintro sym (rfl | rfl) <;> cases hr <;> rfl
  case decEnd => rintro rfl; cases hr; rfl
  case degenerate =>
    rintro rfl hi
    cases hr with
    | decEnd => exact absurd rfl hi
    | decBitOne | decWordOne => rfl
  case index => rintro idx (rfl | rfl | rfl) <;> cases hr <;> rfl
  case range => rintro cnt rfl rfl; cases hr; rfl
  case desRun =>
    rintro rfl
    cases hr with
    | desRun hp => exact ⟨_, hp, rfl⟩

/-! ### What a failing command word changes -/

/-- A word that decodes carries the opcode of its command. -/
theorem opcodeOf_of_decode {w : Word} {i : Instr} (h : decode w = .ok i) : opcodeOf i = opcOf w := by
  rw [← decodeAndEncodeAreInverse.2 w i h]
  exact (Laws.opcOf_append ..).symm

/-- Settles O16: an illegal word raises on the state it finds, and a command that fails on that state or, having
read SERBUF, on the one with the next draw. -/
theorem failedCommandChangesOnlyItsReport : Obligations.FailedCommandChangesOnlyItsReport := by
  intro w s t h hne
  rw [submit] at h
  split at h
  next i hi =>
    rw [← opcodeOf_of_decode hi]
    obtain ⟨e, info, u, -, rfl | rfl, rfl⟩ | ⟨r0, r1, u, -, rfl⟩ := exec_cases h
    · exact ⟨_, rfl⟩
    · exact ⟨_, rfl⟩
    · exact absurd rfl hne
  next =>
    cases h
    exact ⟨_, rfl⟩

end Machine
end Sys2Proof

namespace Sys2Proof
namespace Machine

/-! ### Steps that stop

The faults are those of trees and counts that the laws of the state exclude. -/

/-- Settles O7: the step of an empty list of moves. -/
theorem stepWithNoMoveIsIdle : Obligations.StepWithNoMoveIsIdle := by
  intro s hbus
  rw [step, hbus]

theorem TreeLaw.exists_root {s : State} (h : TreeLaw s) : ∃ e, s.nodeAt s.root = some e :=
  exists_entry_of_stored h.stored h.rootInside

/-- Where the root is internal, so is the node at which the Decoder stands (R150). -/
theorem DecoderLaw.exists_inner {s : State} (h : DecoderLaw s) (hv : s.treeValid = true) {f : Word}
    {l r : NodeIdx} (hroot : s.nodeAt s.root = some (.inner f l r)) :
    ∃ g l' r', s.nodeAt s.decNode = some (.inner g l' r') := by
  obtain hdec | hinner := h.2 hv
  · exact ⟨f, l, r, hdec ▸ hroot⟩
  · exact hinner

section
variable {s : State} (h : Laws s)
include h

theorem Laws.exec_build_answers : ∃ t, exec .build s = .next t := by
  by_cases htotal : s.total = 0#32
  · exact ⟨_, exec_build_of_no_count htotal⟩
  · exact ⟨_, exec_build_of_count h.freq htotal⟩

theorem Laws.exec_nodeRead_answers (idx : BitVec 10) : ∃ t, exec (.nodeRead idx) s = .next t := by
  rcases Nat.lt_or_ge idx.toNat s.nnodes.toNat with hlt | hle
  swap
  · exact ⟨_, exec_nodeRead_of_le hle⟩
  cases hv : s.treeValid with
  | false =>
    obtain ⟨-, hnnodes, -⟩ := h.tree.1 hv
    rw [hnnodes] at hlt
    exact absurd hlt (Nat.not_lt_zero _)
  | true =>
    obtain ⟨e, he⟩ := exists_entry_of_stored (h.tree.2 hv).stored hlt
    exact ⟨_, exec_nodeRead_of_entry hlt he⟩

theorem Laws.exec_genCodes_answers : ∃ t, exec .genCodes s = .next t := by
  cases hv : s.treeValid with
  | false => exact ⟨_, exec_genCodes_of_no_tree hv⟩
  | true =>
    obtain ⟨tree, htree⟩ := (h.tree.2 hv).exists_tree
    exact ⟨_, exec_genCodes_of_tree hv htree⟩

theorem Laws.exec_serBuild_answers : ∃ t, exec .serBuild s = .next t := by
  cases hv : s.treeValid with
  | false => exact ⟨_, exec_serBuild_of_no_tree hv⟩
  | true =>
    obtain ⟨tree, htree⟩ := (h.tree.2 hv).exists_tree
    exact ⟨_, exec_serBuild_of_tree hv htree⟩

theorem Laws.exec_decBit_answers (b : Bool) : ∃ t, exec (.decBit b) s = .next t := by
  cases hv : s.treeValid with
  | false => exact ⟨_, exec_decBit_of_err (dstep_of_no_tree hv s.decNode b 0)⟩
  | true =>
    have htree := h.tree.2 hv
    obtain ⟨⟨sym, f⟩ | ⟨f, l, r⟩, hroot⟩ := htree.exists_root
    · have hstep := dstep_of_root_leaf hv hroot s.decNode b 0
      cases b with
      | false => exact ⟨_, exec_decBit_of_at hstep⟩
      | true => exact ⟨_, exec_decBit_of_err hstep⟩
    · obtain ⟨g, l', r', hnode⟩ := h.decoder.exists_inner hv hroot
      obtain ⟨sym, hstep⟩ | ⟨c, _, _, _, -, hstep⟩ := htree.dstep_from_inner hv hroot hnode b 0
      · exact ⟨_, exec_decBit_of_at hstep⟩
      · exact ⟨_, exec_decBit_of_at hstep⟩

theorem Laws.exec_decWord_answers (cnt : BitVec 6) : ∃ t, exec (.decWord cnt) s = .next t := by
  by_cases hcnt : cnt.toNat = 0 ∨ 32 < cnt.toNat
  · exact ⟨_, exec_decWord_of_range hcnt⟩
  have hpos : 1 ≤ cnt.toNat := by omega
  have hle : cnt.toNat ≤ 32 := by omega
  cases hv : s.treeValid with
  | false => exact ⟨_, exec_decWord_of_no_tree hpos hle hv⟩
  | true =>
    have htree := h.tree.2 hv
    obtain ⟨⟨sym, f⟩ | ⟨f, l, r⟩, hroot⟩ := htree.exists_root
    · obtain ⟨-, -, hzero, hone⟩ := degenerateTreeEmitsOnZeroOnly s sym f cnt hv hroot hpos hle
      cases hbit : s.dataIn.getLsbD 31 with
      | false =>
        obtain ⟨t, ht, -⟩ := hzero hbit
        exact ⟨t, ht⟩
      | true => exact ⟨_, hone hbit⟩
    · obtain ⟨t, -, ht, -⟩ := decWordCompletes s cnt f l r hpos hle hv htree h.decoder hroot
      exact ⟨t, ht⟩

/-- Every command answers a next state: those that read the tree or the counts find what the laws promise. -/
theorem Laws.exec_answers (i : Instr) : ∃ t, exec i s = .next t := by
  cases i with
  | nop | softReset | errClear | freqClear | freqRead | treeClear | codeRead | encClear | outPop
  | decReset | desRun => exact ⟨_, rfl⟩
  | freqCount sym => exact exec_freqCount_total sym s
  | freqWrite sym => exact exec_freqWrite_total sym s
  | encSym sym => exact exec_encSym_total sym s
  | desWrite idx => exact exec_desWrite_total idx s
  | build => exact h.exec_build_answers
  | nodeRead idx => exact h.exec_nodeRead_answers idx
  | genCodes => exact h.exec_genCodes_answers
  | serBuild => exact h.exec_serBuild_answers
  | decBit b => exact h.exec_decBit_answers b
  | decWord cnt => exact h.exec_decWord_answers cnt
  | decEnd =>
    rw [exec, execDecEnd]
    split <;> exact ⟨_, rfl⟩
  | serRead idx =>
    rw [exec, execSerRead]
    split <;> exact ⟨_, rfl⟩

/-- A word that is submitted runs its command, with BUSY raised, or is illegal. -/
theorem Laws.submit_answers (w : Word) : ∃ t, submit w s = .next t := by
  have hbusy : Laws { s with busy := true } :=
    h.of_sameTables fun item _ _ _ => by cases item <;> simp [Item.same]
  rw [submit]
  split
  · exact hbusy.exec_answers _
  · exact ⟨_, rfl⟩

variable (hidle : s.busy = false)
include hidle

theorem Laws.writeReg_answers (r : Reg) (w : Word) : ∃ t, writeReg r w s = .next t := by
  cases r with
  | cmd =>
    rw [writeReg, hidle]
    exact h.submit_answers w
  | dataIn =>
    rw [writeReg, hidle]
    exact ⟨_, rfl⟩
  | _ => exact ⟨s, rfl⟩

theorem Laws.hostMove_answers_or_outside (m : HostMove) :
    (∃ t, hostMove m s = .next t) ∨ hostMove m s = .refused .accessOutsideWindow := by
  cases m with
  | reset => exact .inl ⟨_, rfl⟩
  | read addr width =>
    rw [hostMove]
    split
    · exact .inl ⟨_, rfl⟩
    · exact .inr rfl
  | write addr lanes =>
    rw [hostMove]
    split
    · split
      · exact .inl (h.writeReg_answers hidle _ _)
      · exact .inl ⟨s, rfl⟩
    · exact .inr rfl

end

/-- Settles O60: the laws give every command what it reads, and taking a move off the bus keeps them. -/
theorem nothingStopsUnderTheInvariant : Obligations.NothingStopsUnderTheInvariant := by
  intro s hs
  obtain ⟨hidle, hlaws⟩ := (inv_iff s).1 hs
  refine ⟨hlaws.exec_answers, ?_⟩
  rcases hbus : s.bus with _ | ⟨m, rest⟩
  · exact .inl ⟨s, stepWithNoMoveIsIdle s hbus⟩
  · rw [step_cons hbus]
    have hrest : Laws { s with bus := rest } :=
      hlaws.of_sameTables fun item _ _ ho => by cases item <;> simp_all [Item.same]
    exact hrest.hostMove_answers_or_outside hidle m

end Machine
end Sys2Proof

namespace Sys2Proof
namespace Machine

/-! ### Accesses that the host does not have -/

/-- An access that ends at or before the window, or begins at or after its end, touches no byte of it. -/
theorem touchesWindow_outside {p : Params} {addr width : Nat}
    (h : addr + width ≤ p.base ∨ p.base + Config.windowBytes ≤ addr) : touchesWindow p addr width = false := by
  obtain hbelow | habove := h
  · simp [touchesWindow, Nat.not_lt.2 hbelow]
  · simp [touchesWindow, Nat.not_lt.2 habove]

theorem hostMove_write_outside {s : State} {addr : Nat} {lanes : List Byte}
    (h : touchesWindow s.params addr lanes.length = false) :
    hostMove (.write addr lanes) s = .refused .accessOutsideWindow := by
  simp [hostMove, h]

theorem hostMove_read_outside {s : State} {addr width : Nat} (h : touchesWindow s.params addr width = false) :
    hostMove (.read addr width) s = .refused .accessOutsideWindow := by
  simp [hostMove, h]

theorem writeReg_of_busy {s : State} (hbusy : s.busy = true) {r : Reg} (hr : r = .cmd ∨ r = .dataIn) (w : Word) :
    writeReg r w s = .refused .hostWriteWhileBusy := by
  obtain rfl | rfl := hr <;> simp [writeReg, hbusy]

/-- Settles O10: the window test refuses the first kind of access, the BUSY test of the register the second. -/
theorem undefinedHostMovesAreRefused : Obligations.UndefinedHostMovesAreRefused := by
  constructor
  · rintro s addr width lanes rest houtside rfl
    have htouch : touchesWindow s.params addr lanes.length = false := touchesWindow_outside houtside
    have hstep (m : HostMove) : step { s with bus := m :: rest } = hostMove m { s with bus := rest } := step_cons rfl
    exact ⟨(hstep _).trans (hostMove_write_outside htouch), (hstep _).trans (hostMove_read_outside htouch)⟩
  · intro s r v rest hbusy hr hbus
    calc step s = writeReg r v { s with bus := rest } :=
          (step_cons hbus).trans (hostMove_write_regOffset { s with bus := rest } r v)
      _ = .refused .hostWriteWhileBusy := writeReg_of_busy (s := { s with bus := rest }) hbusy hr v

/-! ### Hardware reset -/

/-- R700: the reset input leaves nothing of a state but its parameters and the model's own fields. -/
theorem hardReset_eq_reset (s : State) : hardReset s =
    { State.reset with params := s.params, draws := s.draws, bus := s.bus, readData := s.readData } := rfl

/-- Settles O13: the move is the hardware reset of the state without it. -/
theorem hardwareResetFromAnyState : Obligations.HardwareResetFromAnyState := by
  intro s rest hbus
  rw [step_cons hbus, hostMove, hardReset_eq_reset]

/-- Settles O12: the registers packed of several fields evaluate, the others are fields; the tables are cleared. -/
theorem resetStateHasTheResetValues : Obligations.ResetStateHasTheResetValues := by
  have hparams : paramsWord State.reset = 0x02002008#32 := by decide
  have hstatus : statusWord State.reset = 0#32 := by decide
  have htree : treeInfoWord State.reset = 0x000001FF#32 := treeInfoWord_of_unloaded rfl rfl rfl rfl rfl
  have hdec : decInfoWord State.reset = 0x000003FF#32 := decInfoWord_of_unloaded rfl rfl
  exact ⟨rfl, hparams, rfl, hstatus, rfl, rfl, htree, rfl, hdec, rfl, rfl, rfl, rfl, rfl, rfl, rfl,
    fun sym => ⟨freqAt_of_cleared rfl sym, codeAt_of_cleared rfl sym⟩⟩

/-- The reset state meets every law: its tables are cleared and it has no tree. -/
theorem laws_reset : Laws State.reset where
  params := by decide
  freq := freqLaw_of_cleared rfl rfl
  tree := treeRegistersLaw_of_no_tree rfl ⟨rfl, rfl, rfl, rfl⟩
  decoder := decoderLaw_at_root rfl fun _ => rfl
  codes := codeLaw_of_cleared rfl rfl
  buffers := ⟨Nat.zero_le _, reset_serbuf_wf, Nat.zero_le _⟩

/-- Settles O56: the laws, and BUSY = 0. -/
theorem invariantHoldsAtReset : Obligations.InvariantHoldsAtReset :=
  (inv_iff State.reset).2 ⟨rfl, laws_reset⟩

end Machine
end Sys2Proof
